-- ==== Sys2Proof/Word.lean ====
section
/-! DEFINITION. The widths of spec/00_scope.md R8 and spec/10_state.md R21, R25: bytes, bus words, limbs,
the 11 bits of an offset in the register map, field elements and 32-byte registers. -/

namespace Sys2Proof

/-- A byte of SCALAR, IN or OUT (R25 to R27). -/
abbrev Byte := BitVec 8

/-- A word of the host bus and a command word (BUS_W = 32, R8; R90). -/
abbrev Word := BitVec 32

/-- A limb: the 64-bit pattern of a two's-complement integer, read with `toInt` (LIMB_W = 64, R8, R21). -/
abbrev Limb := BitVec 64

/-- An offset in the 2 KiB register map, address bits 10:0 relative to BASE (20_memory.md R60, R68). -/
abbrev Offset := BitVec 11

/-- A field element: 16 limbs, limb 0 least significant (R21). -/
abbrev Elem := Vector Limb 16

/-- A 32-byte register, byte 0 first (R25 to R27). -/
abbrev ByteReg := Vector Byte 32

end Sys2Proof
end

