-- ==== Sys2Proof/Config.lean ====
section
/-! DEFINITION. The parameters the spec leaves open (spec/00_scope.md R9; 92_eei_decisions.md D2). They are
opaque: no proof can know a value of one, so a claim holds for every choice the platform makes. -/

namespace Sys2Proof

/-- The number of the 4 KiB page the platform places the register map on (R9, log 8). -/
opaque Config.basePage : Nat

/-- BASE, "the host address at which the register map starts (any 4 KiB-aligned address)" (R9). -/
def Config.base : Nat := 4096 * Config.basePage

/-- One less than LAT of an opcode (R9, log 9). -/
opaque Config.latencyRest : BitVec 8 → Nat

/-- LAT(op), "one positive constant per opcode" (R9): its type lets it depend on the opcode alone, which is
the part of R271 that a value can carry. The step counts no cycles (R267, log 9). -/
def Config.latency (op : BitVec 8) : Nat := Config.latencyRest op + 1

end Sys2Proof
end

