-- ==== Sys2Proof/Syntax.lean ====
section
/-! DEFINITION. The commands of X255CMD version 1: one constructor per row of spec/opcode_table.json
(spec/30_encoding.md R97). Operands are typed so that no reserved specifier can be written (R94, R95); what
a raw command word may hold is judged in WellFormed.lean. -/

namespace Sys2Proof

/-- A field register number, F0 to F7 (R21, R95). -/
abbrev FReg := Fin 8

/-- A source operand: a field register or one of the four constants (R94, 10_state.md R23). -/
inductive Src where
  | reg (r : FReg)
  | kzero
  | kone
  | knine
  | ka24
deriving DecidableEq, Repr

/-- The twelve commands (R97). -/
inductive Instr where
  /-- `FADD Fd, s1, s2` (40_field_arith.md R125). -/
  | fadd (d : FReg) (s1 s2 : Src)
  /-- `FSUB Fd, s1, s2` (R126). -/
  | fsub (d : FReg) (s1 s2 : Src)
  /-- `FMUL Fd, s1, s2` (R128). -/
  | fmul (d : FReg) (s1 s2 : Src)
  /-- `FCARRY Fd` (R127). -/
  | fcarry (d : FReg)
  /-- `FCSWAP Fa, Fb, flag` (R129). -/
  | fcswap (a b : FReg) (flag : Bool)
  /-- `FINV Fd, s1` (R131). -/
  | finv (d : FReg) (s1 : Src)
  /-- `FUNPACK Fd` (41_codec.md R170). -/
  | funpack (d : FReg)
  /-- `FPACK s1` (41_codec.md R171). -/
  | fpack (s1 : Src)
  /-- `LINIT` (42_ladder.md R187). -/
  | linit
  /-- `LSTEP` (42_ladder.md R188). -/
  | lstep
  /-- `LFINISH` (42_ladder.md R189). -/
  | lfinish
  /-- `LADDER` (42_ladder.md R190). -/
  | ladder
deriving DecidableEq, Repr

/-- Pseudo-instruction `FSQR Fd, s` (R102). -/
abbrev Instr.fsqr (d : FReg) (s : Src) : Instr := .fmul d s s

/-- Pseudo-instruction `FMOV Fd, s` (R102). -/
abbrev Instr.fmov (d : FReg) (s : Src) : Instr := .fadd d s .kzero

/-- Pseudo-instruction `FNEG Fd, s` (R102). -/
abbrev Instr.fneg (d : FReg) (s : Src) : Instr := .fsub d .kzero s

/-- Pseudo-instruction `FCLR Fd` (R102). -/
abbrev Instr.fclr (d : FReg) : Instr := .fadd d .kzero .kzero

/-- Pseudo-instruction `FSWAP Fa, Fb` (R102). -/
abbrev Instr.fswap (a b : FReg) : Instr := .fcswap a b true

end Sys2Proof
end

