-- ==== Sys2Proof/WellFormed.lean ====
section
/-! DEFINITION. Which command words are legal, written from the field table and the opcode map of
spec/30_encoding.md (R91, R97) and the five causes of R98. It is written apart from the decoder, so that
"the decoder refuses exactly the illegal words" is a statement with content. An `Instr` is well formed by
its type; what can be ill formed on this hardware is a raw command. -/

namespace Sys2Proof

/-- The fields of a command word (R91), as raw bits. -/
structure Command where
  op  : BitVec 8
  rd  : BitVec 4
  rs1 : BitVec 4
  rs2 : BitVec 4
  s   : BitVec 1
  rsv : BitVec 11
deriving DecidableEq, Repr

/-- What the opcode map asks of one field (R97): a destination, a source, the swap flag, or zero. -/
inductive FieldKind where
  | dst
  | src
  | flag
  | zero
deriving DecidableEq, Repr

/-- One row of the opcode map (R97). -/
structure OpRow where
  op       : BitVec 8
  mnemonic : String
  rd       : FieldKind
  rs1      : FieldKind
  rs2      : FieldKind
  s        : FieldKind
deriving DecidableEq, Repr

/-- The opcode map of R97, row for row. -/
def opcodeMap : List OpRow := [
  ⟨0x01, "FADD",    .dst,  .src,  .src,  .zero⟩,
  ⟨0x02, "FSUB",    .dst,  .src,  .src,  .zero⟩,
  ⟨0x03, "FMUL",    .dst,  .src,  .src,  .zero⟩,
  ⟨0x04, "FCARRY",  .dst,  .zero, .zero, .zero⟩,
  ⟨0x05, "FCSWAP",  .zero, .dst,  .dst,  .flag⟩,
  ⟨0x06, "FINV",    .dst,  .src,  .zero, .zero⟩,
  ⟨0x08, "FUNPACK", .dst,  .zero, .zero, .zero⟩,
  ⟨0x09, "FPACK",   .zero, .src,  .zero, .zero⟩,
  ⟨0x10, "LINIT",   .zero, .zero, .zero, .zero⟩,
  ⟨0x11, "LSTEP",   .zero, .zero, .zero, .zero⟩,
  ⟨0x12, "LFINISH", .zero, .zero, .zero, .zero⟩,
  ⟨0x13, "LADDER",  .zero, .zero, .zero, .zero⟩]

/-- Whether a field's value is one its kind allows: destinations 0 to 7 (R95), sources 0 to 0xB (R94), unused
fields 0 (R96), the flag 0 or 1 (R93). -/
def FieldKind.allows (k : FieldKind) (v : Nat) : Bool :=
  match k with
  | .dst => decide (v ≤ 7)
  | .src => decide (v ≤ 0xB)
  | .flag => decide (v ≤ 1)
  | .zero => decide (v = 0)

/-- R98 (a): the opcode is in the map. -/
def Command.opAssigned (c : Command) : Bool := opcodeMap.any fun row => row.op == c.op

/-- R98 (b): the reserved bits are 0 (R92). -/
def Command.rsvClear (c : Command) : Bool := c.rsv == 0

/-- R98 (c), (d), (e): every field holds a value its row allows. -/
def OpRow.fieldsAllowed (row : OpRow) (c : Command) : Bool :=
  row.rd.allows c.rd.toNat && row.rs1.allows c.rs1.toNat && row.rs2.allows c.rs2.toNat && row.s.allows c.s.toNat

/-- A command is legal when none of the causes of R98 holds. -/
def Command.wellFormed (c : Command) : Bool :=
  c.opAssigned && c.rsvClear && opcodeMap.all fun row => row.op != c.op || row.fieldsAllowed c

end Sys2Proof
end

