-- ==== Sys2Proof/Decode.lean ====
section
/-! DEFINITION. From a command word to a command, or the reason the word is illegal (spec/30_encoding.md R91
to R98), and the encoder (R101) after it. -/

namespace Sys2Proof

/-- The causes of R98, by name. The block reports none of them apart: every one is ERR_ILLEGAL. Where several
hold, the one named is the model's choice (log 11). -/
inductive Illegal where
  /-- R98 (a): OP is unassigned. -/
  | unassignedOpcode
  /-- R98 (b): RSV is not 0. -/
  | reservedBits
  /-- R98 (c): a field that must be 0 is not. -/
  | unusedField
  /-- R98 (d): a source specifier is 0xC to 0xF. -/
  | sourceSpecifier
  /-- R98 (e): a destination specifier is 0x8 to 0xF. -/
  | destinationSpecifier
deriving DecidableEq, Repr

/-- The fields of a command word (R91). -/
def Command.ofWord (w : Word) : Command :=
  { op  := w.extractLsb' 0 8
    rd  := w.extractLsb' 8 4
    rs1 := w.extractLsb' 12 4
    rs2 := w.extractLsb' 16 4
    s   := w.extractLsb' 20 1
    rsv := w.extractLsb' 21 11 }

/-- The command word of these fields (R91). -/
def Command.word (c : Command) : Word := c.rsv ++ c.s ++ c.rs2 ++ c.rs1 ++ c.rd ++ c.op

/-- A destination specifier: 0x0 to 0x7 (R95). -/
def decodeDst (v : BitVec 4) : Except Illegal FReg :=
  if h : v.toNat < 8 then .ok ⟨v.toNat, h⟩ else .error .destinationSpecifier

/-- A source specifier (R94). -/
def decodeSrc (v : BitVec 4) : Except Illegal Src :=
  if h : v.toNat < 8 then .ok (.reg ⟨v.toNat, h⟩)
  else if v = 0x8 then .ok .kzero
  else if v = 0x9 then .ok .kone
  else if v = 0xA then .ok .knine
  else if v = 0xB then .ok .ka24
  else .error .sourceSpecifier

/-- A field the command does not use: 0 (R96). -/
def decodeUnused {n : Nat} (v : BitVec n) : Except Illegal Unit :=
  if v = 0 then .ok () else .error .unusedField

/-- The command a word's fields stand for, by the opcode map (R97), or why the word is illegal (R98). -/
def decodeCommand (c : Command) : Except Illegal Instr := do
  if c.rsv ≠ 0 then throw .reservedBits
  match c.op with
  | 0x01 =>
    decodeUnused c.s
    return .fadd (← decodeDst c.rd) (← decodeSrc c.rs1) (← decodeSrc c.rs2)
  | 0x02 =>
    decodeUnused c.s
    return .fsub (← decodeDst c.rd) (← decodeSrc c.rs1) (← decodeSrc c.rs2)
  | 0x03 =>
    decodeUnused c.s
    return .fmul (← decodeDst c.rd) (← decodeSrc c.rs1) (← decodeSrc c.rs2)
  | 0x04 =>
    decodeUnused c.rs1; decodeUnused c.rs2; decodeUnused c.s
    return .fcarry (← decodeDst c.rd)
  | 0x05 =>
    decodeUnused c.rd
    return .fcswap (← decodeDst c.rs1) (← decodeDst c.rs2) (c.s == 1)
  | 0x06 =>
    decodeUnused c.rs2; decodeUnused c.s
    return .finv (← decodeDst c.rd) (← decodeSrc c.rs1)
  | 0x08 =>
    decodeUnused c.rs1; decodeUnused c.rs2; decodeUnused c.s
    return .funpack (← decodeDst c.rd)
  | 0x09 =>
    decodeUnused c.rd; decodeUnused c.rs2; decodeUnused c.s
    return .fpack (← decodeSrc c.rs1)
  | 0x10 =>
    decodeUnused c.rd; decodeUnused c.rs1; decodeUnused c.rs2; decodeUnused c.s
    return .linit
  | 0x11 =>
    decodeUnused c.rd; decodeUnused c.rs1; decodeUnused c.rs2; decodeUnused c.s
    return .lstep
  | 0x12 =>
    decodeUnused c.rd; decodeUnused c.rs1; decodeUnused c.rs2; decodeUnused c.s
    return .lfinish
  | 0x13 =>
    decodeUnused c.rd; decodeUnused c.rs1; decodeUnused c.rs2; decodeUnused c.s
    return .ladder
  | _ => throw .unassignedOpcode

/-- The command a word stands for: "every word is either one of the twelve commands with legal fields, or
illegal" (R99). -/
def decode (w : Word) : Except Illegal Instr := decodeCommand (Command.ofWord w)

/-- The specifier of a field register (R94, R95). -/
def FReg.spec (r : FReg) : BitVec 4 := BitVec.ofNat 4 r.val

/-- The specifier of a source operand (R94). -/
def Src.spec : Src → BitVec 4
  | .reg r => FReg.spec r
  | .kzero => 0x8
  | .kone => 0x9
  | .knine => 0xA
  | .ka24 => 0xB

/-- The fields of each command (R97). -/
def Instr.command : Instr → Command
  | .fadd d s1 s2 => ⟨0x01, FReg.spec d, s1.spec, s2.spec, 0, 0⟩
  | .fsub d s1 s2 => ⟨0x02, FReg.spec d, s1.spec, s2.spec, 0, 0⟩
  | .fmul d s1 s2 => ⟨0x03, FReg.spec d, s1.spec, s2.spec, 0, 0⟩
  | .fcarry d => ⟨0x04, FReg.spec d, 0, 0, 0, 0⟩
  | .fcswap a b flag => ⟨0x05, 0, FReg.spec a, FReg.spec b, BitVec.ofBool flag, 0⟩
  | .finv d s1 => ⟨0x06, FReg.spec d, s1.spec, 0, 0, 0⟩
  | .funpack d => ⟨0x08, FReg.spec d, 0, 0, 0, 0⟩
  | .fpack s1 => ⟨0x09, 0, s1.spec, 0, 0, 0⟩
  | .linit => ⟨0x10, 0, 0, 0, 0, 0⟩
  | .lstep => ⟨0x11, 0, 0, 0, 0, 0⟩
  | .lfinish => ⟨0x12, 0, 0, 0, 0, 0⟩
  | .ladder => ⟨0x13, 0, 0, 0, 0, 0⟩

/-- The word of a command (R91, R101). -/
def encode (i : Instr) : Word := i.command.word

/-- An `Instr` is well formed when the command it is written as is legal (R98). Every `Instr` is, by its type
(`Laws.EncodesLegal`). -/
def Instr.wellFormed (i : Instr) : Bool := i.command.wellFormed

/-- The command in the word whose bits, numbered as the opcode table numbers them, are the low `nbits` bits of
`w`. The bits above are 0; a number that is no 32-bit word is no command (R90). -/
def decodeTableWord (nbits w : Nat) : Option Instr :=
  if w % 2 ^ nbits < 2 ^ 32 then (decode (BitVec.ofNat 32 (w % 2 ^ nbits))).toOption else none

end Sys2Proof
end

