-- ==== Sys2Proof/Machine/State.lean ====
section
/-! DEFINITION. The state of the block (spec/10_state.md R20), the events that can happen to it
(spec/70_reset_and_hazards.md R264), why a step could stop, and the state after reset (R41). -/

namespace Sys2Proof.Machine

/-- The events of the block's sequence (R264): "a host read, a host write, an engine completion or a reset". A host
access carries its offset from BASE (log 8). -/
inductive Event where
  /-- A word read at BASE + `off`. -/
  | hostRead (off : Offset)
  /-- A word write of `v` at BASE + `off`. -/
  | hostWrite (off : Offset) (v : Word)
  /-- The engine's turn: the completion of the command in flight, if there is one (R266; log 3). -/
  | engine
  /-- The reset input is applied (R260). -/
  | reset
deriving DecidableEq, Repr

/-- The rejections a write can meet, by name (60_exceptions.md R222). -/
inductive ErrCode where
  /-- ERR_ILLEGAL: an illegal command word written while idle. -/
  | illegal
  /-- ERR_BUSY: a write while BUSY = 1 to CMD, SCALAR, IN or the field window. -/
  | busy
  /-- ERR_LSTATE: a legal LSTEP written while idle with LCOUNT = 0. -/
  | lstate
deriving DecidableEq, Repr

/-- Why a step stops with a fault. There is no reason: "The block has no trap mechanism" (R220), "every accepted
command completes" (R223), and 93_implementation_defined.md: "No item is treated as `fault` or `stuck`". -/
inductive Fault where
deriving DecidableEq, Repr

/-- Why a step refuses an instruction. -/
inductive Refusal where
  /-- Raised by an arm of `exec` for an instruction the model gives no meaning yet; safe. No arm raises it now. -/
  | notModelled (mnemonic : String)
deriving DecidableEq, Repr

/-- The state of the block, and two fields of the model's own. STATUS.IRQ, the `irq` output, ID and CMD have no
storage (log 10). -/
@[ext]
structure State where
  /-- F0 to F7 (R21). -/
  f : Vector Elem 8
  /-- SCALAR (R25). -/
  scalar : ByteReg
  /-- IN (R26). -/
  inp : ByteReg
  /-- OUT (R27). -/
  out : ByteReg
  /-- LCOUNT (R28). -/
  lcount : BitVec 8
  /-- CTRL.IRQ_EN (R31). -/
  irqEn : Bool
  /-- STATUS.BUSY (R33). -/
  busy : Bool
  /-- STATUS.DONE (R34). -/
  done : Bool
  /-- STATUS.ERR (R35). -/
  err : Bool
  /-- STATUS.ERRCODE (R35, R222). -/
  errcode : BitVec 4
  /-- CUR, the command word accepted last (R39). -/
  cur : Word
  /-- The model's own: the events still to happen, oldest first (log 1). -/
  events : List Event
  /-- The model's own: the words the bus has answered to host reads, newest first (log 7). -/
  reads : List Word
deriving DecidableEq, Repr

/-- The state after reset (R41, R260): every register 0, and nothing happening outside the block yet (log 12). -/
def State.reset : State :=
  { f := Vector.replicate 8 (Vector.replicate 16 0)
    scalar := Vector.replicate 32 0
    inp := Vector.replicate 32 0
    out := Vector.replicate 32 0
    lcount := 0
    irqEn := false
    busy := false
    done := false
    err := false
    errcode := 0
    cur := 0
    events := []
    reads := [] }

end Sys2Proof.Machine
end

