-- ==== Sys2Proof/Machine/Ops.lean ====
section
/-! DEFINITION. The operations on the state that every command and every host access share: the field register
file, byte registers seen as integers, bits and bus words, the rejection of a write (this hardware's form of
taking an exception) with the acknowledgement beside it, acceptance and completion of a command, and reset. -/

namespace Sys2Proof.Machine

/-! ### The field register file (spec/10_state.md R21, R22) -/

/-- `F[r]`. -/
def State.getF (s : State) (r : FReg) : Elem := s.f[r]

/-- `F[r] <- v`, all 16 limbs at once (00_scope.md R12). -/
def State.setF (s : State) (r : FReg) (v : Elem) : State := { s with f := s.f.set r v }

/-! ### Byte registers (R10, R25; 20_memory.md R62) -/

/-- `LE(B) = Σ B[k]·256^k` (00_scope.md R10). -/
def leNat (b : ByteReg) : Nat := ((List.finRange 32).map fun k => b[k].toNat * 256 ^ k.val).sum

/-- The 32 little-endian bytes of `v`: byte k is `(v >> (8k)) & 0xFF` (41_codec.md R171). -/
def bytesOf (v : Nat) : ByteReg := Vector.ofFn fun k : Fin 32 => BitVec.ofNat 8 (v >>> (8 * k.val))

/-- Bit i of a byte register: `(B[i >> 3] >> (i & 7)) & 1` (R10, R186). -/
def bitAt (b : ByteReg) (i : BitVec 8) : Bool :=
  have : i.toNat / 8 < 32 := by omega
  b[i.toNat / 8].getLsbD (i.toNat % 8)

/-- Word j of a byte register: byte 4j in bits 7:0, byte 4j+3 in bits 31:24 (R62). -/
def getWord (b : ByteReg) (j : Fin 8) : Word :=
  b[4 * j.val + 3] ++ b[4 * j.val + 2] ++ b[4 * j.val + 1] ++ b[4 * j.val]

/-- The byte register with word j replaced by `v` (R62). -/
def setWord (b : ByteReg) (j : Fin 8) (v : Word) : ByteReg :=
  Vector.ofFn fun k : Fin 32 => if k.val / 4 = j.val then v.extractLsb' (8 * (k.val % 4)) 8 else b[k]

/-- Half h of a limb: bits 31:0, or bits 63:32 when h (R63). -/
def getHalf (x : Limb) (h : Bool) : Word := if h then x.extractLsb' 32 32 else x.extractLsb' 0 32

/-- The limb with half h replaced by `v` and the other half kept (R64). -/
def setHalf (x : Limb) (h : Bool) (v : Word) : Limb :=
  if h then v ++ x.extractLsb' 0 32 else x.extractLsb' 32 32 ++ v

/-! ### Rejection and acknowledgement (60_exceptions.md R222, R226, R231) -/

/-- The value ERRCODE takes (R222). -/
def ErrCode.code : ErrCode → BitVec 4
  | .illegal => 0x1
  | .busy => 0x2
  | .lstate => 0x3

/-- `raise Error(code)` (R226): record the first rejection's code, set ERR, change nothing else. -/
def State.raise (s : State) (c : ErrCode) : State :=
  { s with err := true, errcode := if s.err then s.errcode else c.code }

/-- The host's write-1-to-clear of DONE and of ERR with ERRCODE (R34, R35, R231). -/
def State.acknowledge (s : State) (clearDone clearErr : Bool) : State :=
  { s with
    done := s.done && !clearDone
    err := s.err && !clearErr
    errcode := if clearErr then 0 else s.errcode }

/-! ### A command's acceptance and completion (R225, R230) -/

/-- Acceptance "changes exactly CUR, STATUS.BUSY (to 1) and STATUS.DONE (to 0)" (R225). -/
def State.accept (s : State) (w : Word) : State := { s with cur := w, busy := true, done := false }

/-- Completion sets "STATUS.BUSY <- 0 and STATUS.DONE <- 1" once the results are written (R230). -/
def State.complete (s : State) : State := { s with busy := false, done := true }

/-- What the engine does with a word in CUR that the command write would have rejected: the rejection, and no
command in flight. No run reaches such a state (DESIGN CHOICE, log 4 and log 5). -/
def State.rejectInFlight (s : State) (c : ErrCode) : State := { s.raise c with busy := false }

/-! ### Reset (70_reset_and_hazards.md R260) -/

/-- Reset applied to the block: every register takes its reset value; the events still to happen and the words the
host has read are outside the block (log 13). -/
def State.applyReset (s : State) : State := { State.reset with events := s.events, reads := s.reads }

/-! ### Placing a command for the engine -/

/-- `w` accepted, with the engine's turn as the very next event (log 6). -/
def State.loadCommand (s : State) (w : Word) : State :=
  { s.accept w with events := .engine :: s.events }

end Sys2Proof.Machine
end

