-- ==== Sys2Proof/Machine/Field.lean ====
section
/-! DEFINITION. The functions on field elements that the commands share (spec/40_field_arith.md R120 to R123,
R139; 41_codec.md R171, R172), each computed on exact integers and narrowed at the end (00_scope.md R11). -/

namespace Sys2Proof.Machine

/-! ### Integers and limbs (00_scope.md R11, R14) -/

/-- `wrap64(n)`: the limb congruent to n mod 2^64 (R11). -/
def wrap64 (n : Int) : Limb := BitVec.ofInt 64 n

/-- `asr(n, k)` = floor(n / 2^k) (R11). -/
def asr (n : Int) (k : Nat) : Int := n.fdiv ((2 ^ k : Nat) : Int)

/-- p = 2^255 − 19 (R7). -/
def fieldPrime : Nat := 2 ^ 255 - 19

/-- `val(x) = Σ x[i]·2^(16·i)`, the limbs read as signed integers (R14). -/
def val (x : Elem) : Int := ((List.finRange 16).map fun i => x[i].toInt * ((2 ^ (16 * i.val) : Nat) : Int)).sum

/-- `limbs(v)`: the 16 base-2^16 digits of v, least significant first (R14). -/
def limbs (v : Nat) : Elem := Vector.ofFn fun i : Fin 16 => BitVec.ofNat 64 (v / 2 ^ (16 * i.val) % 2 ^ 16)

/-! ### ADD, SUB, CSWAP (R125, R126, R129) -/

/-- `ADD(x, y)`: limb-wise, no carry (R125). -/
def addLimbs (x y : Elem) : Elem := Vector.ofFn fun i : Fin 16 => wrap64 (x[i].toInt + y[i].toInt)

/-- `SUB(x, y)`: limb-wise, no borrow (R126). -/
def subLimbs (x y : Elem) : Elem := Vector.ofFn fun i : Fin 16 => wrap64 (x[i].toInt - y[i].toInt)

/-- The mask of the swap flag, `~(S − 1)` on 64 bits (R129). -/
def swapMask (flag : Bool) : Limb := if flag then 0xFFFFFFFFFFFFFFFF else 0

/-- `t = mask & (x[i] ^ y[i])` for every limb (R129). -/
def swapDiff (x y : Elem) (flag : Bool) : Elem := Vector.ofFn fun i : Fin 16 => swapMask flag &&& (x[i] ^^^ y[i])

/-- A limb-wise exclusive or (R129). -/
def xorLimbs (x t : Elem) : Elem := Vector.ofFn fun i : Fin 16 => x[i] ^^^ t[i]

/-- `CSWAP(x, y, r)`: the pair FCSWAP computes (R129, R139). -/
def cswap (x y : Elem) (flag : Bool) : Elem × Elem :=
  (xorLimbs x (swapDiff x y flag), xorLimbs y (swapDiff x y flag))

/-! ### CARRY (R120) -/

/-- Step i of CARRY: the carry out of limb i goes to limb i + 1, or 38-fold from limb 15 to limb 0 (R120). -/
def carryStep (x : Elem) (i : Fin 16) : Elem :=
  let c := asr x[i].toInt 16
  let x := x.set i (wrap64 (x[i].toInt % 65536))
  if h : i.val < 15 then x.set (i.val + 1) (wrap64 (x[i.val + 1].toInt + c))
  else x.set 0 (wrap64 (x[0].toInt + 38 * c))

/-- `CARRY(x)`: the steps i = 0, 1, …, 15 in order (R120). -/
def carry (x : Elem) : Elem := (List.finRange 16).foldl carryStep x

/-! ### MULRED (R122) -/

/-- Limb k read as an integer; 0 beyond limb 15. -/
def limbInt (x : Elem) (k : Nat) : Int := if h : k < 16 then x[k].toInt else 0

/-- `t[k] = Σ a[i]·b[j]` over i + j = k with 0 ≤ i, j ≤ 15, exact (R122). -/
def column (a b : Elem) (k : Nat) : Int :=
  ((List.finRange 16).map fun i => if i.val ≤ k then a[i].toInt * limbInt b (k - i.val) else 0).sum

/-- `u[k] = t[k] + 38·t[k+16]` for k ≤ 14, and `u[15] = t[15]` (R122). -/
def folded (a b : Elem) (k : Nat) : Int :=
  if k < 15 then column a b k + 38 * column a b (k + 16) else column a b k

/-- The 16 folded columns, each wrapped to a limb (R122). -/
def product (a b : Elem) : Elem := Vector.ofFn fun k : Fin 16 => wrap64 (folded a b k.val)

/-- `MULRED(a, b)`: the folded product carried twice (R122). -/
def mulred (a b : Elem) : Elem := carry (carry (product a b))

/-! ### INV (R123) -/

/-- One step of INV at index k: square, and multiply by a unless k is 2 or 4 (R123). -/
def invStep (a c : Elem) (k : Nat) : Elem :=
  if k ≠ 2 ∧ k ≠ 4 then mulred (mulred c c) a else mulred c c

/-- The steps of INV at the indices n − 1 down to 0. -/
def invLoop (a : Elem) : Nat → Elem → Elem
  | 0, c => c
  | k + 1, c => invLoop a k (invStep a c k)

/-- `INV(a)`: from c = a, the steps k = 253 down to 0 (R123). -/
def inverse (a : Elem) : Elem := invLoop a 254 a

/-! ### PACK (41_codec.md R171) and the mechanism of R172 -/

/-- `PACK(x)`: the 32 little-endian bytes of `val(x) mod p` (R171). -/
def pack (x : Elem) : ByteReg := bytesOf (val x % (fieldPrime : Int)).toNat

/-- Limb i of p: 0xFFED, 0xFFFF fourteen times, 0x7FFF (R172). -/
def pLimb (i : Nat) : Int := if i = 0 then 0xFFED else if i < 15 then 0xFFFF else 0x7FFF

/-- The borrow into limb i of `t − p`: `(m[i−1] >> 16) & 1` before `m[i−1]` is masked (R172). -/
def packBorrow (t : Elem) : Nat → Int
  | 0 => 0
  | i + 1 => asr (limbInt t i - pLimb i - packBorrow t i) 16 % 2

/-- `m`: t − p with borrows between limbs; limbs 0 to 14 masked to 16 bits, limb 15 left as it is (R172). -/
def packMinusP (t : Elem) : Elem :=
  Vector.ofFn fun i : Fin 16 =>
    let d := t[i].toInt - pLimb i.val - packBorrow t i.val
    if i.val < 15 then wrap64 (d % 65536) else wrap64 d

/-- One round: keep t − p when it did not borrow (R172). -/
def packRound (t : Elem) : Elem := (cswap t (packMinusP t) (packBorrow t 16 == 0)).1

/-- The branch-free mechanism of R172: three carries, two conditional subtractions of p, then the bytes. FPACK
itself is defined by value (R171); that the two agree below 2^62 is a statement about this definition. -/
def packMechanism (x : Elem) : ByteReg :=
  let t := packRound (packRound (carry (carry (carry x))))
  Vector.ofFn fun k : Fin 32 => t[k.val / 2].extractLsb' (8 * (k.val % 2)) 8

/-! ### UNPACK (41_codec.md R170) -/

/-- The element FUNPACK writes: limb i is `IN[2i] + 256·IN[2i+1]`, bit 255 kept (R170). -/
def unpack (b : ByteReg) : Elem :=
  Vector.ofFn fun i : Fin 16 => BitVec.ofNat 64 (b[2 * i.val].toNat + 256 * b[2 * i.val + 1].toNat)

end Sys2Proof.Machine
end

