-- ==== Sys2Proof/Machine/Flags.lean ====
section
/-! DEFINITION. The status bits. The block has no arithmetic flags (spec/10_state.md R30): what a host can test is
STATUS (R32) and the interrupt output (R40). -/

namespace Sys2Proof.Machine

/-- `irq = CTRL.IRQ_EN & (STATUS.DONE | STATUS.ERR)` (R40), also the value of STATUS.IRQ (R36). -/
def State.irq (s : State) : Bool := s.irqEn && (s.done || s.err)

/-- STATUS as the host reads it (R32): bit 0 BUSY, 1 DONE, 2 ERR, 7:4 ERRCODE, 8 IRQ, the rest 0. -/
def State.statusWord (s : State) : Word :=
  (0 : BitVec 23) ++ BitVec.ofBool s.irq ++ s.errcode ++ (0 : BitVec 1)
    ++ BitVec.ofBool s.err ++ BitVec.ofBool s.done ++ BitVec.ofBool s.busy

/-- CTRL as the host reads it (R31): bit 0 IRQ_EN, the rest 0. -/
def State.ctrlWord (s : State) : Word := (0 : BitVec 31) ++ BitVec.ofBool s.irqEn

/-- A write of `v` to STATUS: bit 1 clears DONE, bit 2 clears ERR and ERRCODE (R34, R35). -/
def State.writeStatus (s : State) (v : Word) : State := s.acknowledge (v.getLsbD 1) (v.getLsbD 2)

/-- A write of `v` to CTRL: bit 0 is IRQ_EN, the other bits are ignored (R31). -/
def State.writeCtrl (s : State) (v : Word) : State := { s with irqEn := v.getLsbD 0 }

end Sys2Proof.Machine
end

