-- ==== Sys2Proof/Machine/Bus.lean ====
section
/-! DEFINITION. The host's word accesses to the register map (spec/20_memory.md R60 to R72) and the handling of a
command write (60_exceptions.md R224). -/

namespace Sys2Proof.Machine

/-! ### The register map (R61, R63, R68) -/

/-- What a word of the register map is (R61). -/
inductive Port where
  | id
  | ctrl
  | status
  | cmd
  | lcount
  | reserved
  | scalar (j : Fin 8)
  | inp (j : Fin 8)
  | out (j : Fin 8)
  | window (r : FReg) (i : Fin 16) (h : Bool)
deriving DecidableEq, Repr

/-- The number of the word an access names, `offset[10:2]`: "address bits 1:0 are ignored" (R68). -/
def wordIndex (off : Offset) : Nat := off.toNat / 4

/-- Word number n of the map (R61, R63): the numbers are a quarter of the map's offsets. -/
def portAt (n : Nat) : Port :=
  if n = 0 then .id
  else if n = 1 then .ctrl
  else if n = 2 then .status
  else if n = 3 then .cmd
  else if n = 4 then .lcount
  else if n < 8 then .reserved
  else if n < 16 then .scalar (Fin.ofNat 8 (n - 8))
  else if n < 24 then .inp (Fin.ofNat 8 (n - 16))
  else if n < 32 then .out (Fin.ofNat 8 (n - 24))
  else if n < 256 then .reserved
  else .window (Fin.ofNat 8 ((n - 256) / 32)) (Fin.ofNat 16 ((n - 256) / 2)) ((n - 256) % 2 == 1)

/-- The word at an offset. -/
def portOf (off : Offset) : Port := portAt (wordIndex off)

/-- The offset at which the platform presents a host address, when the address is in the map (R60, R68, log 8). -/
def offsetOf (addr : Nat) : Option Offset :=
  if Config.base ≤ addr ∧ addr < Config.base + 0x800 then some (BitVec.ofNat 11 (addr - Config.base)) else none

/-- ID always reads 0x58323535 (R37). -/
def idValue : Word := 0x58323535

/-! ### Reads (R61, R64, R66, R67, R72) -/

/-- The word at a port as an idle block answers it. -/
def State.idleRead (s : State) : Port → Word
  | .id => idValue
  | .ctrl => s.ctrlWord
  | .status => s.statusWord
  | .cmd => 0
  | .lcount => s.lcount.zeroExtend 32
  | .reserved => 0
  | .scalar j => getWord s.scalar j
  | .inp j => getWord s.inp j
  | .out j => getWord s.out j
  | .window r i h => getHalf (s.getF r)[i] h

/-- Whether a read of the port returns 0 while BUSY = 1 (R61, R72). -/
def Port.hiddenWhileBusy : Port → Bool
  | .id => false
  | .ctrl => false
  | .status => false
  | .cmd => false
  | .lcount => true
  | .reserved => false
  | .scalar _ => true
  | .inp _ => true
  | .out _ => true
  | .window _ _ _ => true

/-- The word a host read returns. It "depends only on the state" (R265). -/
def State.busRead (s : State) (off : Offset) : Word :=
  if s.busy && (portOf off).hiddenWhileBusy then 0 else s.idleRead (portOf off)

/-- A host read (R71, R265): the block's state is unchanged; the model notes the answer (log 7). -/
def State.hostRead (s : State) (off : Offset) : State := { s with reads := s.busRead off :: s.reads }

/-! ### Writes (R61, R64, R66, R72, R224) -/

/-- A write of the command word `w` to CMD, handled in the order of R224. -/
def State.writeCmd (s : State) (w : Word) : State :=
  if s.busy then s.raise .busy
  else match decode w with
    | .error _ => s.raise .illegal
    | .ok _ => if w.extractLsb' 0 8 = 0x11 ∧ s.lcount = 0 then s.raise .lstate else s.accept w

/-- The write of a data register: rejected with ERR_BUSY while BUSY = 1 (R72). -/
def State.writeData (s : State) (written : State) : State := if s.busy then s.raise .busy else written

/-- A host write of `v`, by port (R61): read-only and reserved words ignore it (R66). -/
def State.writePort (s : State) (v : Word) : Port → State
  | .id => s
  | .ctrl => s.writeCtrl v
  | .status => s.writeStatus v
  | .cmd => s.writeCmd v
  | .lcount => s
  | .reserved => s
  | .scalar j => s.writeData { s with scalar := setWord s.scalar j v }
  | .inp j => s.writeData { s with inp := setWord s.inp j v }
  | .out _ => s
  | .window r i h => s.writeData (s.setF r ((s.getF r).set i (setHalf (s.getF r)[i] h v)))

/-- A host write of `v` at an offset. -/
def State.busWrite (s : State) (off : Offset) (v : Word) : State := s.writePort v (portOf off)

end Sys2Proof.Machine
end

