-- ==== Sys2Proof/Machine/Operands.lean ====
section
/-! DEFINITION. The operand forms: a source specifier names a field register or one of four constants
(spec/30_encoding.md R94; 10_state.md R23, R24). A destination is always a field register (R95). -/

namespace Sys2Proof.Machine

/-- KZERO = limbs(0) (R23). -/
def kzero : Elem := limbs 0

/-- KONE = limbs(1) (R23). -/
def kone : Elem := limbs 1

/-- KNINE = limbs(9) (R23). -/
def knine : Elem := limbs 9

/-- KA24 = limbs(121665) = [0xDB41, 0x0001, 0, …] (R23, R24). -/
def ka24 : Elem := limbs 121665

/-- `opnd(s)` (R94). -/
def State.opnd (s : State) : Src → Elem
  | .reg r => s.getF r
  | .kzero => Sys2Proof.Machine.kzero
  | .kone => Sys2Proof.Machine.kone
  | .knine => Sys2Proof.Machine.knine
  | .ka24 => Sys2Proof.Machine.ka24

end Sys2Proof.Machine
end

