-- ==== Sys2Proof/Machine/Codec.lean ====
section
/-! DEFINITION. The packing commands (spec/41_codec.md R170, R171). -/

namespace Sys2Proof.Machine

/-- FUNPACK (R170). -/
def execFunpack (d : FReg) (s : State) : Host.Outcome State Fault Refusal :=
  .next (s.setF d (unpack s.inp)).complete

/-- FPACK (R171). -/
def execFpack (s1 : Src) (s : State) : Host.Outcome State Fault Refusal :=
  .next { s with out := pack (s.opnd s1) }.complete

end Sys2Proof.Machine
end

