-- ==== Sys2Proof/Machine/FieldArith.lean ====
section
/-! DEFINITION. The field arithmetic commands (spec/40_field_arith.md R124 to R131). Each reads its sources as a
snapshot, writes its destinations and completes (R13, R124, R230). -/

namespace Sys2Proof.Machine

/-- FADD (R125). -/
def execFadd (d : FReg) (s1 s2 : Src) (s : State) : Host.Outcome State Fault Refusal :=
  .next (s.setF d (addLimbs (s.opnd s1) (s.opnd s2))).complete

/-- FSUB (R126). -/
def execFsub (d : FReg) (s1 s2 : Src) (s : State) : Host.Outcome State Fault Refusal :=
  .next (s.setF d (subLimbs (s.opnd s1) (s.opnd s2))).complete

/-- FMUL (R128). -/
def execFmul (d : FReg) (s1 s2 : Src) (s : State) : Host.Outcome State Fault Refusal :=
  .next (s.setF d (mulred (s.opnd s1) (s.opnd s2))).complete

/-- FCARRY (R127). -/
def execFcarry (d : FReg) (s : State) : Host.Outcome State Fault Refusal :=
  .next (s.setF d (carry (s.getF d))).complete

/-- FCSWAP (R129): both registers are written, also when they are one. -/
def execFcswap (a b : FReg) (flag : Bool) (s : State) : Host.Outcome State Fault Refusal :=
  let xy := cswap (s.getF a) (s.getF b) flag
  .next ((s.setF a xy.1).setF b xy.2).complete

/-- FINV (R131). -/
def execFinv (d : FReg) (s1 : Src) (s : State) : Host.Outcome State Fault Refusal :=
  .next (s.setF d (inverse (s.opnd s1))).complete

end Sys2Proof.Machine
end

