-- ==== Sys2Proof/Machine/Ladder.lean ====
section
/-! DEFINITION. The ladder commands (spec/42_ladder.md R185 to R190): the source's state (a, b, c, d, e, f) is F0
to F5 (10_state.md R22). -/

namespace Sys2Proof.Machine

/-- The ladder registers by the source's names (R185, R22). -/
structure LadderRegs where
  a : Elem
  b : Elem
  c : Elem
  d : Elem
  e : Elem
  f : Elem
deriving DecidableEq, Repr

/-- F0 to F5 as a to f (R22). -/
def State.ladderRegs (s : State) : LadderRegs := ⟨s.f[0], s.f[1], s.f[2], s.f[3], s.f[4], s.f[5]⟩

/-- a to f written back to F0 to F5; F6 and F7 are never touched (R22, R185). -/
def State.setLadderRegs (s : State) (l : LadderRegs) : State :=
  { s with f := #v[l.a, l.b, l.c, l.d, l.e, l.f, s.f[6], s.f[7]] }

/-- One iteration on scalar bit r, line for line as R188 gives it. It reads e and f of no earlier step (R193). -/
def ladderStep (r : Bool) (l : LadderRegs) : LadderRegs :=
  let ab := cswap l.a l.b r      -- swap (a,b) on bit
  let a := ab.1
  let b := ab.2
  let cd := cswap l.c l.d r      -- swap (c,d) on bit
  let c := cd.1
  let d := cd.2
  let e := addLimbs a c          -- e = a + c
  let a := subLimbs a c          -- a = a − c
  let c := addLimbs b d          -- c = b + d
  let b := subLimbs b d          -- b = b − d
  let d := mulred e e            -- d = e²
  let f := mulred a a            -- f = a²
  let a := mulred c a            -- a = c·a
  let c := mulred b e            -- c = b·e
  let e := addLimbs a c          -- e = a + c
  let a := subLimbs a c          -- a = a − c
  let b := mulred a a            -- b = a²
  let c := subLimbs d f          -- c = d − f
  let a := mulred c ka24         -- a = c·121665
  let a := addLimbs a d          -- a = a + d
  let c := mulred c a            -- c = c·a
  let a := mulred d f            -- a = d·f
  let d := mulred b knine        -- d = b·9
  let b := mulred e e            -- b = e²
  let ab := cswap a b r          -- swap back
  let cd := cswap c d r
  ⟨ab.1, ab.2, cd.1, cd.2, e, f⟩

/-- LINIT's body (R187): a = 1, b = 9, c = 0, d = 1, LCOUNT = 255; e and f are left as they were. -/
def linitBody (s : State) : State :=
  { s.setLadderRegs { s.ladderRegs with a := kone, b := knine, c := kzero, d := kone } with lcount := 255 }

/-- LSTEP's body (R188): the iteration on bit LCOUNT − 1 of SCALAR, then LCOUNT − 1. -/
def lstepBody (s : State) : State :=
  { s.setLadderRegs (ladderStep (bitAt s.scalar (s.lcount - 1)) s.ladderRegs) with lcount := s.lcount - 1 }

/-- The LSTEP body n times (R190). -/
def lstepLoop : Nat → State → State
  | 0, s => s
  | n + 1, s => lstepLoop n (lstepBody s)

/-- LFINISH's body (R189): "invert c, multiply by a, pack". -/
def lfinishBody (s : State) : State :=
  let c := inverse (s.getF 2)      -- invert c
  let a := mulred (s.getF 0) c     -- multiply by a
  { (s.setF 2 c).setF 0 a with out := pack a }

/-- LINIT (R187). -/
def execLinit (s : State) : Host.Outcome State Fault Refusal :=
  .next (linitBody s).complete

/-- LSTEP (R188). Its precondition LCOUNT ≠ 0 is checked when the command is written (R224), so a run never has it
in flight with LCOUNT = 0; there it is rejected as that check rejects it (DESIGN CHOICE, log 4). -/
def execLstep (s : State) : Host.Outcome State Fault Refusal :=
  if s.lcount = 0 then .next (s.rejectInFlight .lstate) else .next (lstepBody s).complete

/-- LFINISH (R189). -/
def execLfinish (s : State) : Host.Outcome State Fault Refusal :=
  .next (lfinishBody s).complete

/-- LADDER (R190): "LINIT body; repeat 255 times: LSTEP body; LFINISH body". -/
def execLadder (s : State) : Host.Outcome State Fault Refusal :=
  .next (lfinishBody (lstepLoop 255 (linitBody s))).complete

end Sys2Proof.Machine
end

