-- ==== Sys2Proof/Machine/Dispatch.lean ====
section
/-! DEFINITION. The meaning of each command: what its completion does to the state (spec/70_reset_and_hazards.md
R266). -/

namespace Sys2Proof.Machine

def exec (i : Instr) (s : State) : Host.Outcome State Fault Refusal :=
  match i with
  | .fadd d s1 s2 => Sys2Proof.Machine.execFadd d s1 s2 s
  | .fsub d s1 s2 => Sys2Proof.Machine.execFsub d s1 s2 s
  | .fmul d s1 s2 => Sys2Proof.Machine.execFmul d s1 s2 s
  | .fcarry d => Sys2Proof.Machine.execFcarry d s
  | .fcswap a b flag => Sys2Proof.Machine.execFcswap a b flag s
  | .finv d s1 => Sys2Proof.Machine.execFinv d s1 s
  | .funpack d => Sys2Proof.Machine.execFunpack d s
  | .fpack s1 => Sys2Proof.Machine.execFpack s1 s
  | .linit => Sys2Proof.Machine.execLinit s
  | .lstep => Sys2Proof.Machine.execLstep s
  | .lfinish => Sys2Proof.Machine.execLfinish s
  | .ladder => Sys2Proof.Machine.execLadder s

end Sys2Proof.Machine
end

