-- ==== Sys2Proof/Machine/Engine.lean ====
section
/-! DEFINITION. What each event of the block's sequence does (spec/70_reset_and_hazards.md R264 to R267). -/

namespace Sys2Proof.Machine

/-- The engine's turn (R266): "An engine completion is possible exactly when BUSY = 1. It executes CUR by the rule of
its opcode". With nothing in flight no event happens (log 3); an illegal CUR, which no run reaches, is rejected as
the command write would have rejected it (log 5). -/
def engineTurn (s : State) : Host.Outcome State Fault Refusal :=
  if s.busy then
    match decode s.cur with
    | .ok i => exec i s
    | .error _ => .next (s.rejectInFlight .illegal)
  else .next s

/-- One event applied to the whole state (R264). -/
def applyEvent (e : Event) (s : State) : Host.Outcome State Fault Refusal :=
  match e with
  | .hostRead off => .next (s.hostRead off)
  | .hostWrite off v => .next (s.busWrite off v)
  | .engine => engineTurn s
  | .reset => .next s.applyReset

/-- The next event of the sequence: the first of those still to happen, or, when the outside world has nothing more
to do, the engine's turn, which is how every accepted command completes (R267, log 2). -/
def nextEvent (s : State) : Host.Outcome State Fault Refusal :=
  match s.events with
  | [] => engineTurn s
  | e :: rest => applyEvent e { s with events := rest }

/-- The state in which the very next event runs the command in the low `nbits` bits of `w` (log 6). -/
def loadTableWord (s : State) (nbits w : Nat) : State := s.loadCommand (BitVec.ofNat 32 (w % 2 ^ nbits))

end Sys2Proof.Machine
end

