-- ==== Sys2Proof/Machine/Step.lean ====
section
/-! DEFINITION. One step of the block: one event of its sequence (spec/70_reset_and_hazards.md R264). -/

namespace Sys2Proof.Machine

/-- One event of the block's sequence. -/
def step (s : State) : Host.Outcome State Fault Refusal := nextEvent s

/-- `s` with the command in the low `nbits` bits of `w` accepted and the engine's turn next. The block fetches
nothing (R78): this stands for the host's CMD write of the word (log 6). -/
def State.withFetchWord (s : State) (nbits w : Nat) : State := loadTableWord s nbits w

end Sys2Proof.Machine
end

