-- ==== Sys2Proof/Machine/HostSide.lean ====
section
/-! DEFINITION. The host's notation of spec/30_encoding.md R103 as lists of events, and the host's clamp of
spec/42_ladder.md R202. The block does none of this: it is what a host does to it. -/

namespace Sys2Proof.Machine.HostSide

/-- `st <offset>, <value>` (R103). -/
def st (off : Offset) (v : Word) : List Event := [.hostWrite off v]

/-- `ld <offset>` (R103). -/
def ld (off : Offset) : List Event := [.hostRead off]

/-- `cmd <command>`: the word written to CMD (R103). -/
def cmd (i : Instr) : List Event := [.hostWrite 0x00C (encode i)]

/-- `wait`: some polls of STATUS, the completion, and the poll that returns BUSY = 0 (R103, R267). -/
def wait (polls : Nat) : List Event := List.replicate polls (.hostRead 0x008) ++ [.engine, .hostRead 0x008]

/-- Writing a 32-byte value to SCALAR or IN at `base`: eight `st` of the words of R62 (R103). -/
def stBytes (base : Offset) (b : ByteReg) : List Event :=
  (List.finRange 8).map fun j => .hostWrite (base + BitVec.ofNat 11 (4 * j.val)) (getWord b j)

/-- `clamp(B)`: `B[0] & 0xF8` and `(B[31] & 0x7F) | 0x40` (R202). A host step: the block never clamps (R201). -/
def clamp (b : ByteReg) : ByteReg := (b.set 0 (b[0] &&& 0xF8)).set 31 ((b[31] &&& 0x7F) ||| 0x40)

/-- Deriving a public key (R203, R204): write the scalar, issue LADDER, wait, read OUT. -/
def deriveKey (scalar : ByteReg) (polls : Nat) : List Event :=
  stBytes 0x020 scalar ++ cmd .ladder ++ wait polls
    ++ (List.finRange 8).map fun j => .hostRead (0x060 + BitVec.ofNat 11 (4 * j.val))

end Sys2Proof.Machine.HostSide
end

