-- ==== Sys2Proof/Safety.lean ====
section
/-! DEFINITION. What a safe run of the block is: it never stops, and every state of it meets the invariant of the
in-flight command and the error report (spec/10_state.md R33 to R35, R39; 60_exceptions.md R222, R225). -/

namespace Sys2Proof.Machine

/-- The step goes on. -/
def Continues (o : Host.Outcome State Fault Refusal) : Prop := ∃ t, o = .next t

/-- The invariant of the block: it holds at reset and every step keeps it. -/
structure BlockInv (s : State) : Prop where
  /-- While BUSY = 1, CUR is a legal command that passed the checks of R224: no LSTEP with LCOUNT = 0. -/
  inFlight : s.busy = true → ∃ i, decode s.cur = .ok i ∧ ¬ (i = .lstep ∧ s.lcount = 0)
  /-- BUSY and DONE are never 1 together (R33, R34). -/
  busyNotDone : s.busy = true → s.done = false
  /-- ERRCODE is 0 when ERR = 0 (R32). -/
  noError : s.err = false → s.errcode = 0
  /-- ERRCODE is one of the three codes when ERR = 1: 4 to 15 are never produced (R222). -/
  errorCode : s.err = true → s.errcode = 1 ∨ s.errcode = 2 ∨ s.errcode = 3

end Sys2Proof.Machine
end

