-- ==== Sys2Proof/Certificates/Slice0/Obligations.lean ====
section
/-! DEFINITION. The statements about the model, each from the numbered rules of spec/. What they need beyond the
model's own names (frames, sequences of commands, the textbook ladder over GF(p)) is defined first, in
`Sys2Proof.Claims`. -/

namespace Sys2Proof.Claims

open Sys2Proof.Machine

/-! ### Frames -/

/-- What every completed command leaves as it was, and the two bits completion sets (R124, R230). -/
structure Completed (s t : State) : Prop where
  scalar  : t.scalar = s.scalar
  inp     : t.inp = s.inp
  irqEn   : t.irqEn = s.irqEn
  err     : t.err = s.err
  errcode : t.errcode = s.errcode
  cur     : t.cur = s.cur
  events  : t.events = s.events
  reads   : t.reads = s.reads
  busy    : t.busy = false
  done    : t.done = true

/-- No field register but those of `w` changed, nor OUT, nor LCOUNT. -/
structure WroteOnly (w : List FReg) (s t : State) : Prop where
  others : ∀ r, r ∉ w → t.getF r = s.getF r
  out    : t.out = s.out
  lcount : t.lcount = s.lcount

/-- The bits of a command word, field by field (R91). -/
def fieldsOf (w : Word) : Nat × Nat × Nat × Nat × Nat × Nat :=
  (w.toNat % 2 ^ 8, w.toNat / 2 ^ 8 % 2 ^ 4, w.toNat / 2 ^ 12 % 2 ^ 4, w.toNat / 2 ^ 16 % 2 ^ 4,
    w.toNat / 2 ^ 20 % 2, w.toNat / 2 ^ 21)

/-- The number of a source specifier (R94). -/
def srcNumber : Src → Nat
  | .reg r => r.val
  | .kzero => 8
  | .kone => 9
  | .knine => 10
  | .ka24 => 11

/-! ### Sequences of commands and of events -/

/-- The commands run one after the other, each seeing the state the one before it left. -/
def runCommands : List Instr → State → Host.Outcome State Fault Refusal
  | [], s => .next s
  | i :: is, s =>
    match exec i s with
    | .next t => runCommands is t
    | .fault e => .fault e
    | .refused e => .refused e

/-- The 24 lines of LSTEP (R188), each written as the command whose function it names (R139). -/
def lstepLines (r : Bool) : List Instr := [
  .fcswap 0 1 r, .fcswap 2 3 r,
  .fadd 4 (.reg 0) (.reg 2), .fsub 0 (.reg 0) (.reg 2), .fadd 2 (.reg 1) (.reg 3), .fsub 1 (.reg 1) (.reg 3),
  .fmul 3 (.reg 4) (.reg 4), .fmul 5 (.reg 0) (.reg 0), .fmul 0 (.reg 2) (.reg 0), .fmul 2 (.reg 1) (.reg 4),
  .fadd 4 (.reg 0) (.reg 2), .fsub 0 (.reg 0) (.reg 2), .fmul 1 (.reg 0) (.reg 0), .fsub 2 (.reg 3) (.reg 5),
  .fmul 0 (.reg 2) .ka24, .fadd 0 (.reg 0) (.reg 3), .fmul 2 (.reg 2) (.reg 0), .fmul 0 (.reg 3) (.reg 5),
  .fmul 3 (.reg 1) .knine, .fmul 1 (.reg 4) (.reg 4),
  .fcswap 0 1 r, .fcswap 2 3 r]

/-- An access of the host (R263). -/
def isHostAccess : Event → Prop
  | .hostRead _ => True
  | .hostWrite _ _ => True
  | .engine => False
  | .reset => False

/-! ### Limbs as integers -/

/-- Every limb has magnitude below `b`. -/
def Within (x : Elem) (b : Int) : Prop := ∀ i : Fin 16, -b < x[i].toInt ∧ x[i].toInt < b

/-- The limb range of a MULRED output (R132). -/
def MulredRange (x : Elem) : Prop :=
  ∀ i : Fin 16, (i.val = 0 → -38 ≤ x[i].toInt ∧ x[i].toInt ≤ 65573) ∧ (i.val ≠ 0 → 0 ≤ x[i].toInt ∧ x[i].toInt ≤ 65535)

/-- The carry into limb i of CARRY as R120 computes it, wrapping each limb: at i = 16, the carry out of limb 15. -/
def carryIn (x : Elem) : Nat → Int
  | 0 => 0
  | i + 1 => (wrap64 (limbInt x i + carryIn x i)).toInt / 65536

/-- The same carry with no wrap anywhere. -/
def exactCarry (x : Elem) : Nat → Int
  | 0 => 0
  | i + 1 => (limbInt x i + exactCarry x i) / 65536

/-- n is in the range of a limb. -/
def FitsLimb (n : Int) : Prop := -2 ^ 63 ≤ n ∧ n < 2 ^ 63

/-- "No limb wraps during CARRY" (R133). -/
def NoWrap (x : Elem) : Prop :=
  (∀ i < 16, FitsLimb (limbInt x i + exactCarry x i)) ∧ FitsLimb (limbInt x 0 % 65536 + 38 * exactCarry x 16)

/-- A limb by number, 0 beyond limb 15. -/
def limb (x : Elem) (k : Nat) : Limb := if h : k < 16 then x[k] else 0

/-- Column k of the convolution in 64-bit wrapping arithmetic (R122). -/
def wrapColumn (a b : Elem) (k : Nat) : Limb :=
  ((List.range 16).map fun i => if i ≤ k then limb a i * limb b (k - i) else 0).sum

/-- A signed sum of MULRED outputs, taken by FADD and FSUB from left to right (R135): each entry is its sign and the
two operands. -/
def signedSum (l : List (Bool × Elem × Elem)) : Elem :=
  l.foldl (fun acc q => if q.1 then addLimbs acc (mulred q.2.1 q.2.2) else subLimbs acc (mulred q.2.1 q.2.2)) kzero

/-- The residue an element represents (R14). -/
def residue (x : Elem) : ZMod fieldPrime := (val x : ZMod fieldPrime)

/-! ### The textbook ladder over GF(p) (RFC 7748 §5, from general knowledge as R195 marks it) -/

/-- Two projective points (x2 : z2) and (x3 : z3). -/
structure Points where
  x2 : ZMod fieldPrime
  z2 : ZMod fieldPrime
  x3 : ZMod fieldPrime
  z3 : ZMod fieldPrime

/-- The two points exchanged. -/
def Points.swap (q : Points) : Points := ⟨q.x3, q.z3, q.x2, q.z2⟩

/-- Doubling of the first point and differential addition of the two, with base point u = 9 and a24 = 121665. -/
def Points.double (q : Points) : Points :=
  let aa := (q.x2 + q.z2) ^ 2
  let bb := (q.x2 - q.z2) ^ 2
  let da := (q.x3 - q.z3) * (q.x2 + q.z2)
  let cb := (q.x3 + q.z3) * (q.x2 - q.z2)
  { x2 := aa * bb
    z2 := (aa - bb) * (aa + 121665 * (aa - bb))
    x3 := (da + cb) ^ 2
    z3 := 9 * (da - cb) ^ 2 }

/-- One iteration on a scalar bit. -/
def Points.step (q : Points) (bit : Bool) : Points := if bit then q.swap.double.swap else q.double

/-- The iterations on bits n − 1 down to 0 of k. -/
def Points.ladder (k : Nat) : Nat → Points → Points
  | 0, q => q
  | n + 1, q => Points.ladder k n (q.step (k.testBit n))

/-- (1 : 0) and (9 : 1). -/
def Points.start : Points := ⟨1, 0, 9, 1⟩

/-- What the ladder's registers a to d represent, as two points: a : c and b : d (R185). -/
def pointsOf (l : LadderRegs) : Points := ⟨residue l.a, residue l.c, residue l.b, residue l.d⟩

end Sys2Proof.Claims

open Sys2Proof Sys2Proof.Machine Sys2Proof.Claims

/-! ## Encoding (30_encoding.md) -/

/-- R104, which the spec marks as derived from R91 and R101: each example word of the encoding section and the command
it is written for; and a word for FSUB of constants, written out from R91 and R94. -/
def Obligations.DocumentedWordsDecode : Prop :=
  ∀ x ∈ ([(0x00020401, .fadd 4 (.reg 0) (.reg 2)), (0x00020002, .fsub 0 (.reg 0) (.reg 2)),
      (0x00044303, Instr.fsqr 3 (.reg 4)), (0x000B2003, .fmul 0 (.reg 2) .ka24), (0x000A1303, .fmul 3 (.reg 1) .knine),
      (0x00000604, .fcarry 6), (0x00110005, .fcswap 0 1 true), (0x00002206, .finv 2 (.reg 2)),
      (0x00000708, .funpack 7), (0x00000009, .fpack (.reg 0)), (0x00000010, .linit), (0x00000011, .lstep),
      (0x00000012, .lfinish), (0x00000013, .ladder), (0x000A9702, .fsub 7 .kone .knine)] : List (Word × Instr)),
    decode x.1 = .ok x.2 ∧ encode x.2 = x.1

/-- R91, R97, R99: decoding an encoded command gives it back, and a legal word is the encoding of its command: no bit
of a word is dropped and each word has one meaning. -/
def Obligations.DecodeEncodeAgree : Prop :=
  (∀ i : Instr, decode (encode i) = .ok i) ∧ (∀ (w : Word) (i : Instr), decode w = .ok i → encode i = w)

/-- R98: a word is illegal exactly when one of the causes (a) to (e) holds; written to CMD while idle it is rejected
with ERR_ILLEGAL and has no other effect; the all-zero word is illegal. -/
def Obligations.IllegalExactlyWhenR98 : Prop :=
  (∀ w : Word, (∃ e, decode w = .error e) ↔
    (w.extractLsb' 0 8 ∉ opcodeMap.map OpRow.op) ∨ w.extractLsb' 21 11 ≠ 0 ∨
    (∃ row ∈ opcodeMap, row.op = w.extractLsb' 0 8 ∧
      ((row.rd = .zero ∧ w.extractLsb' 8 4 ≠ 0) ∨ (row.rs1 = .zero ∧ w.extractLsb' 12 4 ≠ 0) ∨
       (row.rs2 = .zero ∧ w.extractLsb' 16 4 ≠ 0) ∨ (row.s = .zero ∧ w.extractLsb' 20 1 ≠ 0) ∨
       (row.rs1 = .src ∧ 0xC ≤ (w.extractLsb' 12 4).toNat) ∨ (row.rs2 = .src ∧ 0xC ≤ (w.extractLsb' 16 4).toNat) ∨
       (row.rd = .dst ∧ 8 ≤ (w.extractLsb' 8 4).toNat) ∨ (row.rs1 = .dst ∧ 8 ≤ (w.extractLsb' 12 4).toNat) ∨
       (row.rs2 = .dst ∧ 8 ≤ (w.extractLsb' 16 4).toNat)))) ∧
  (∀ (s : State) (w : Word), s.busy = false → (∃ e, decode w = .error e) →
    s.busWrite 0x00C w = { s with err := true, errcode := if s.err then s.errcode else 1 }) ∧
  (∃ e, decode 0 = .error e)

/-- R91, R101: the word of every command is `OP | RD<<8 | RS1<<12 | RS2<<16 | S<<20` with the fields of R97. -/
def Obligations.CommandWordLayout : Prop :=
  (∀ d s1 s2, fieldsOf (encode (.fadd d s1 s2)) = (0x01, d.val, srcNumber s1, srcNumber s2, 0, 0)) ∧
  (∀ d s1 s2, fieldsOf (encode (.fsub d s1 s2)) = (0x02, d.val, srcNumber s1, srcNumber s2, 0, 0)) ∧
  (∀ d s1 s2, fieldsOf (encode (.fmul d s1 s2)) = (0x03, d.val, srcNumber s1, srcNumber s2, 0, 0)) ∧
  (∀ d, fieldsOf (encode (.fcarry d)) = (0x04, d.val, 0, 0, 0, 0)) ∧
  (∀ a b flag, fieldsOf (encode (.fcswap a b flag)) = (0x05, 0, a.val, b.val, flag.toNat, 0)) ∧
  (∀ d s1, fieldsOf (encode (.finv d s1)) = (0x06, d.val, srcNumber s1, 0, 0, 0)) ∧
  (∀ d, fieldsOf (encode (.funpack d)) = (0x08, d.val, 0, 0, 0, 0)) ∧
  (∀ s1, fieldsOf (encode (.fpack s1)) = (0x09, 0, srcNumber s1, 0, 0, 0)) ∧
  fieldsOf (encode .linit) = (0x10, 0, 0, 0, 0, 0) ∧ fieldsOf (encode .lstep) = (0x11, 0, 0, 0, 0, 0) ∧
  fieldsOf (encode .lfinish) = (0x12, 0, 0, 0, 0, 0) ∧ fieldsOf (encode .ladder) = (0x13, 0, 0, 0, 0, 0)

/-- R94, R23, R24: what each source operand reads: a field register, or the limbs of 0, 1, 9 and 121665, that is
limb 0 = 0xDB41 and limb 1 = 0x0001 for KA24. -/
def Obligations.SourceOperandsRead : Prop :=
  ∀ s : State, (∀ r, s.opnd (.reg r) = s.f[r]) ∧
    (∀ i : Fin 16, (s.opnd .kzero)[i] = 0) ∧
    (∀ i : Fin 16, (s.opnd .kone)[i] = if i = 0 then 1 else 0) ∧
    (∀ i : Fin 16, (s.opnd .knine)[i] = if i = 0 then 9 else 0) ∧
    (∀ i : Fin 16, (s.opnd .ka24)[i] = if i = 0 then 0xDB41 else if i = 1 then 0x0001 else 0) ∧
    val (s.opnd .ka24) = 121665

/-! ## Reset and the step (70_reset_and_hazards.md) -/

/-- R41: the reset values. -/
def Obligations.ResetValues : Prop :=
  (∀ (r : FReg) (i : Fin 16), (State.reset.getF r)[i] = 0) ∧
  (∀ k : Fin 32, State.reset.scalar[k] = 0x00 ∧ State.reset.inp[k] = 0x00 ∧ State.reset.out[k] = 0x00) ∧
  State.reset.lcount = 0 ∧ State.reset.irqEn = false ∧ State.reset.busy = false ∧ State.reset.done = false ∧
  State.reset.err = false ∧ State.reset.errcode = 0 ∧ State.reset.cur = 0 ∧ State.reset.irq = false ∧
  State.reset.busRead 0x008 = 0 ∧ State.reset.busRead 0x000 = 0x58323535

/-- R260: the reset event takes every piece of the block's state to its reset value, whatever was in flight, in every
state. That the events still to come and the host's record of its reads stay is the model's choice (log 13). -/
def Obligations.ResetEventFromAnyState : Prop :=
  ∀ (s : State) (es : List Event), s.events = .reset :: es →
    step s = .next { State.reset with events := es, reads := s.reads }

/-- R266: with a command in flight, the engine's turn runs exactly the command CUR decodes to. The other clauses rest
on choices of the model (DESIGN CHOICE), not on a rule: that an engine's turn with BUSY = 0 may stand in the list and
changes nothing (log 3), that the engine's turn comes by itself when no event is left, its form of the weak fairness
R267 asks for (log 2), and that `withFetchWord` places a command so that the very next step runs it (log 6). -/
def Obligations.StepRunsCommandInFlight : Prop :=
  (∀ (s : State) (i : Instr) (es : List Event), s.busy = true → decode s.cur = .ok i → s.events = .engine :: es →
    step s = exec i { s with events := es }) ∧
  (∀ (s : State) (i : Instr), s.busy = true → decode s.cur = .ok i → s.events = [] → step s = exec i s) ∧
  (∀ (s : State) (es : List Event), s.busy = false → s.events = .engine :: es → step s = .next { s with events := es }) ∧
  (∀ s : State, s.busy = false → s.events = [] → step s = .next s) ∧
  (∀ (s : State) (i : Instr), step (s.withFetchWord 32 (encode i).toNat)
    = exec i { s with cur := encode i, busy := true, done := false })

/-- R264, R265: a host access is one step; a read changes nothing of the block (its answer goes to the model's record
of reads, log 7), and a write does what the register map says. -/
def Obligations.StepAppliesHostAccess : Prop :=
  (∀ (s : State) (off : Offset) (es : List Event), s.events = .hostRead off :: es →
    step s = .next { s with events := es, reads := s.busRead off :: s.reads }) ∧
  (∀ (s : State) (off : Offset) (v : Word) (es : List Event), s.events = .hostWrite off v :: es →
    step s = .next (({ s with events := es } : State).busWrite off v))

/-- R220, R223: no event stops the block, in any state. In the states no run reaches it is the model's choice that the
engine's turn goes on (log 4, log 5). -/
def Obligations.EveryStepContinues : Prop := ∀ s : State, Continues (step s)

/-! ## Field arithmetic (40_field_arith.md) -/

/-- R125: FADD. -/
def Obligations.FaddAddsLimbs : Prop :=
  (∀ (d : FReg) (s1 s2 : Src) (s : State), ∃ t, exec (.fadd d s1 s2) s = .next t ∧
    (∀ i : Fin 16, (t.getF d)[i] = (s.opnd s1)[i] + (s.opnd s2)[i]) ∧
    ((∀ i : Fin 16, FitsLimb ((s.opnd s1)[i].toInt + (s.opnd s2)[i].toInt)) →
      val (t.getF d) = val (s.opnd s1) + val (s.opnd s2)) ∧
    WroteOnly [d] s t ∧ Completed s t) ∧
  (∀ d s1 s2, fieldsOf (encode (.fadd d s1 s2)) = (0x01, d.val, srcNumber s1, srcNumber s2, 0, 0)) ∧
  (∀ s : State, ∃ t, exec (.fadd 0 .kone .knine) s = .next t ∧ t.getF 0 = limbs 0xA)

/-- R126: FSUB. -/
def Obligations.FsubSubtractsLimbs : Prop :=
  (∀ (d : FReg) (s1 s2 : Src) (s : State), ∃ t, exec (.fsub d s1 s2) s = .next t ∧
    (∀ i : Fin 16, (t.getF d)[i] = (s.opnd s1)[i] - (s.opnd s2)[i]) ∧
    ((∀ i : Fin 16, FitsLimb ((s.opnd s1)[i].toInt - (s.opnd s2)[i].toInt)) →
      val (t.getF d) = val (s.opnd s1) - val (s.opnd s2)) ∧
    (s1 = s2 → t.getF d = limbs 0) ∧
    WroteOnly [d] s t ∧ Completed s t) ∧
  (∀ d s1 s2, fieldsOf (encode (.fsub d s1 s2)) = (0x02, d.val, srcNumber s1, srcNumber s2, 0, 0)) ∧
  (∀ s : State, ∃ t, exec (.fsub 0 .kone .knine) s = .next t ∧
    ∀ i : Fin 16, (t.getF 0)[i].toInt = if i = 0 then -8 else 0) ∧
  (∀ s : State, ∃ t, exec (.fsub 0 .kzero .kone) s = .next t ∧
    ∀ i : Fin 16, (t.getF 0)[i].toInt = if i = 0 then -1 else 0)

/-- R127, R120: FCARRY's result, limb by limb, from the chain of carries; limbs 1 to 15 end in [0, 65535]. -/
def Obligations.FcarryPropagatesOnce : Prop :=
  ∀ (d : FReg) (s : State), ∃ t, exec (.fcarry d) s = .next t ∧
    (∀ i : Fin 16, i ≠ 0 → (t.getF d)[i].toInt = (limbInt (s.getF d) i + carryIn (s.getF d) i) % 65536) ∧
    (t.getF d)[0] = wrap64 (limbInt (s.getF d) 0 % 65536 + 38 * carryIn (s.getF d) 16) ∧
    WroteOnly [d] s t ∧ Completed s t

/-- R128: FMUL writes MULRED of its operands, whatever register the destination is; a zero operand gives all-zero
limbs; 121665 times 9 is [0xB549, 0x10, 0, …]. -/
def Obligations.FmulMultipliesAndReduces : Prop :=
  (∀ (d : FReg) (s1 s2 : Src) (s : State), ∃ t, exec (.fmul d s1 s2) s = .next t ∧
    t.getF d = mulred (s.opnd s1) (s.opnd s2) ∧ MulredRange (t.getF d) ∧
    ((s.opnd s1 = limbs 0 ∨ s.opnd s2 = limbs 0) → t.getF d = limbs 0) ∧
    WroteOnly [d] s t ∧ Completed s t) ∧
  (∀ s : State, ∃ t, exec (.fmul 0 .ka24 .knine) s = .next t ∧ t.getF 0 = limbs (121665 * 9))

/-- R122: MULRED's columns computed in 64-bit wrapping arithmetic give the same limbs as the exact columns wrapped at
the end, and it carries them twice. -/
def Obligations.MulredInWrappingArithmetic : Prop :=
  ∀ a b : Elem, mulred a b = carry (carry (Vector.ofFn fun k : Fin 16 =>
    if k.val < 15 then wrapColumn a b k + 38 * wrapColumn a b (k + 16) else wrapColumn a b k))

/-- R129, and R136, which the spec marks as derived from it: FCSWAP with flag 1 exchanges the two registers and with flag 0 leaves them, limb for limb, whatever
the limbs; with a = b nothing changes. -/
def Obligations.FcswapExchangesOrKeeps : Prop :=
  ∀ (a b : FReg) (flag : Bool) (s : State), ∃ t, exec (.fcswap a b flag) s = .next t ∧
    t.getF a = (if flag then s.getF b else s.getF a) ∧ t.getF b = (if flag then s.getF a else s.getF b) ∧
    (a = b → t.f = s.f) ∧ WroteOnly [a, b] s t ∧ Completed s t

/-- R131, R123: FINV's result is the last of a chain that starts at the operand, squares 254 times and multiplies by
the operand (as it was) after each squaring but those at k = 2 and k = 4. -/
def Obligations.FinvRunsFermatChain : Prop :=
  ∀ (d : FReg) (s1 : Src) (s : State), ∃ t, exec (.finv d s1) s = .next t ∧
    (∃ c : Nat → Elem, c 254 = s.opnd s1 ∧ t.getF d = c 0 ∧
      ∀ k < 254, c k = if k = 2 ∨ k = 4 then mulred (c (k + 1)) (c (k + 1))
        else mulred (mulred (c (k + 1)) (c (k + 1))) (s.opnd s1)) ∧
    MulredRange (t.getF d) ∧ WroteOnly [d] s t ∧ Completed s t

/-- R132, an inference the spec marks as derived: CARRY leaves limbs 1 to 15 in [0, 65535] for any input, and every MULRED result also has limb 0 in
[−38, 65573], because one pass leaves limb 0 below 2^53 in magnitude. -/
def Obligations.CarryAndMulredRanges : Prop :=
  (∀ (x : Elem) (i : Fin 16), i ≠ 0 → 0 ≤ (carry x)[i].toInt ∧ (carry x)[i].toInt ≤ 65535) ∧
  (∀ x : Elem, -2 ^ 53 < (carry x)[0].toInt ∧ (carry x)[0].toInt < 2 ^ 53) ∧
  (∀ a b : Elem, MulredRange (mulred a b)) ∧ (∀ a : Elem, MulredRange (inverse a))

/-- R133, an inference the spec marks as derived from R120: when no limb wraps, one CARRY changes the value by exactly 2p times the carry out of limb 15. -/
def Obligations.CarryKeepsResidue : Prop :=
  ∀ x : Elem, NoWrap x →
    val (carry x) = val x - exactCarry x 16 * (2 ^ 256 - 38) ∧
    val (carry x) = val x - 2 * (fieldPrime : Int) * exactCarry x 16 ∧
    val (carry x) % (fieldPrime : Int) = val x % (fieldPrime : Int)

/-- R134, an inference the spec marks as derived: inside the envelope no folded column wraps and MULRED represents the product mod p; outside it need not
(operands 2^40 and 2^40). -/
def Obligations.MulredRepresentsProduct : Prop :=
  (∀ a b : Elem, Within a (2 ^ 26) → Within b (2 ^ 26) →
    (∀ k : Fin 16, (product a b)[k].toInt = folded a b k) ∧
    val (mulred a b) % (fieldPrime : Int) = val a * val b % (fieldPrime : Int)) ∧
  mulred (limbs 0 |>.set 0 (2 ^ 40)) (limbs 0 |>.set 0 (2 ^ 40)) = limbs 0

/-- R135, an inference the spec marks as derived: with no wrap FADD and FSUB are exact on limbs and on values, and a signed sum of at most 1000 MULRED outputs stays inside
the FMUL envelope. -/
def Obligations.SumEnvelopes : Prop :=
  (∀ x y : Elem, (∀ i : Fin 16, FitsLimb (x[i].toInt + y[i].toInt)) →
    (∀ i : Fin 16, (addLimbs x y)[i].toInt = x[i].toInt + y[i].toInt) ∧ val (addLimbs x y) = val x + val y) ∧
  (∀ x y : Elem, (∀ i : Fin 16, FitsLimb (x[i].toInt - y[i].toInt)) →
    (∀ i : Fin 16, (subLimbs x y)[i].toInt = x[i].toInt - y[i].toInt) ∧ val (subLimbs x y) = val x - val y) ∧
  (∀ l : List (Bool × Elem × Elem), l.length ≤ 1000 →
    Within (signedSum l) (1000 * 65573 + 1) ∧ Within (signedSum l) (2 ^ 26))

/-- R137, an inference the spec marks as derived: inside the envelope INV(a) represents the power p − 2 of a. (That this power is the inverse is Fermat's
theorem for the prime p and is not claimed here.) -/
def Obligations.InverseIsFermatPower : Prop :=
  ∀ a : Elem, Within a (2 ^ 26) → residue (inverse a) = residue a ^ (fieldPrime - 2)

/-! ## Packing (41_codec.md) -/

/-- R170: FUNPACK. -/
def Obligations.FunpackReadsIn : Prop :=
  (∀ (d : FReg) (s : State), ∃ t, exec (.funpack d) s = .next t ∧
    (∀ i : Fin 16, (t.getF d)[i].toInt = s.inp[2 * i.val].toNat + 256 * s.inp[2 * i.val + 1].toNat) ∧
    (∀ i : Fin 16, 0 ≤ (t.getF d)[i].toInt ∧ (t.getF d)[i].toInt ≤ 65535) ∧
    val (t.getF d) = leNat s.inp ∧ t.inp = s.inp ∧ WroteOnly [d] s t ∧ Completed s t) ∧
  (∀ d, fieldsOf (encode (.funpack d)) = (0x08, d.val, 0, 0, 0, 0)) ∧
  (∀ (d : FReg) (s : State), (∀ k : Fin 32, s.inp[k] = BitVec.ofNat 8 k) → ∃ t, exec (.funpack d) s = .next t ∧
    ∀ i : Fin 16, (t.getF d)[i] = BitVec.ofNat 64 (2 * i.val + 256 * (2 * i.val + 1)))

/-- R171: FPACK. -/
def Obligations.FpackWritesCanonicalBytes : Prop :=
  (∀ (s1 : Src) (s : State), ∃ t, exec (.fpack s1) s = .next t ∧
    (leNat t.out : Int) = val (s.opnd s1) % (fieldPrime : Int) ∧
    (∀ k : Fin 32, t.out[k].toNat = (val (s.opnd s1) % (fieldPrime : Int)).toNat / 2 ^ (8 * k.val) % 256) ∧
    t.out[31].getLsbD 7 = false ∧ t.f = s.f ∧ t.lcount = s.lcount ∧ Completed s t) ∧
  (∀ s1, fieldsOf (encode (.fpack s1)) = (0x09, 0, srcNumber s1, 0, 0, 0)) ∧
  (∀ (r : FReg) (s : State), ∃ t, exec (.fpack (.reg r)) s = .next t ∧
    (val (s.getF r) = fieldPrime → leNat t.out = 0) ∧ (val (s.getF r) = 2 ^ 255 → leNat t.out = 0x13) ∧
    (val (s.getF r) = -1 → leNat t.out = fieldPrime - 1)) ∧
  (∀ s : State, ∃ t, exec (.fpack .knine) s = .next t ∧ leNat t.out = 9)

/-- R172, an inference the spec marks as derived: for limbs of magnitude below 2^62 the branch-free mechanism gives the bytes R171 defines. -/
def Obligations.PackMechanismAgrees : Prop :=
  ∀ x : Elem, Within x (2 ^ 62) → packMechanism x = pack x

/-- R173, an inference the spec marks as derived: FUNPACK and then FPACK of the same register gives OUT = LE(IN) mod p, so IN itself when LE(IN) < p, and
LE(IN) less p once or twice otherwise. -/
def Obligations.UnpackThenPackReduces : Prop :=
  ∀ (d : FReg) (s : State), ∃ t, runCommands [.funpack d, .fpack (.reg d)] s = .next t ∧
    leNat t.out = leNat s.inp % fieldPrime ∧ (leNat s.inp < fieldPrime → t.out = s.inp) ∧
    (fieldPrime ≤ leNat s.inp → leNat t.out = leNat s.inp - fieldPrime ∨ leNat t.out = leNat s.inp - 2 * fieldPrime) ∧
    ((∀ k : Fin 32, s.inp[k] = 0xFF) → leNat t.out = 0x25)

/-! ## The ladder (42_ladder.md) -/

/-- R187: LINIT. -/
def Obligations.LinitStartsLadder : Prop :=
  (∀ s : State, ∃ t, exec .linit s = .next t ∧
    (∀ i : Fin 16, (t.getF 0)[i] = if i = 0 then 1 else 0) ∧ (∀ i : Fin 16, (t.getF 1)[i] = if i = 0 then 9 else 0) ∧
    (∀ i : Fin 16, (t.getF 2)[i] = 0) ∧ (∀ i : Fin 16, (t.getF 3)[i] = if i = 0 then 1 else 0) ∧
    t.lcount = 255 ∧ (∀ r : FReg, 4 ≤ r.val → t.getF r = s.getF r) ∧ t.out = s.out ∧ Completed s t) ∧
  fieldsOf (encode .linit) = (0x10, 0, 0, 0, 0, 0)

/-- R188, R139: with iterations left, LSTEP leaves the registers its 24 lines leave when each is run as the command it
names, on bit LCOUNT − 1 of SCALAR, and counts one iteration; F6, F7 and OUT stay. -/
def Obligations.LstepRunsItsLines : Prop :=
  ∀ s : State, s.lcount ≠ 0 → ∃ t u, exec .lstep s = .next t ∧
    runCommands (lstepLines ((leNat s.scalar).testBit (s.lcount.toNat - 1))) s = .next u ∧
    t.f = u.f ∧ t.lcount.toNat + 1 = s.lcount.toNat ∧ t.out = s.out ∧
    t.getF 6 = s.getF 6 ∧ t.getF 7 = s.getF 7 ∧ Completed s t

/-- R224, R227: LSTEP with LCOUNT = 0 is rejected when it is written, with ERR_LSTATE, and nothing else changes. Found
in flight with LCOUNT = 0, where no run leads, it is rejected the same way (the model's choice, log 4). -/
def Obligations.LstepWithoutIterationsRejected : Prop :=
  (∀ s : State, s.busy = false → s.lcount = 0 →
    s.busWrite 0x00C 0x00000011 = { s with err := true, errcode := if s.err then s.errcode else 3 }) ∧
  (∀ s : State, s.lcount = 0 →
    exec .lstep s = .next { s with busy := false, err := true, errcode := if s.err then s.errcode else 3 })

/-- R189: LFINISH is "invert c, multiply by a, pack": FINV F2, F2; FMUL F0, F0, F2; FPACK F0, at any LCOUNT. -/
def Obligations.LfinishRunsItsLines : Prop :=
  ∀ s : State, ∃ t, exec .lfinish s = .next t ∧
    runCommands [.finv 2 (.reg 2), .fmul 0 (.reg 0) (.reg 2), .fpack (.reg 0)] s = .next t ∧
    t.lcount = s.lcount ∧ (∀ r : FReg, r ≠ 0 → r ≠ 2 → t.getF r = s.getF r) ∧ Completed s t

/-- R190, and R196, which the spec marks as derived from it: LADDER leaves what LINIT, 255 LSTEPs and LFINISH leave, command by command; LCOUNT ends 0 and F6 and
F7 stay. -/
def Obligations.LadderIsItsSteps : Prop :=
  ∀ s : State, ∃ t, exec .ladder s = .next t ∧
    runCommands (.linit :: (List.replicate 255 .lstep ++ [.lfinish])) s = .next t ∧
    t.lcount = 0 ∧ t.out = pack (t.getF 0) ∧ t.getF 6 = s.getF 6 ∧ t.getF 7 = s.getF 7 ∧ Completed s t

/-- R191 and R193, inferences the spec marks as derived: LADDER's F0 to F5 and OUT depend on bits 0 to 254 of SCALAR alone: two blocks that agree on those
bits, whatever else they hold, are left with the same. -/
def Obligations.LadderDependsOnScalarBits : Prop :=
  ∀ s s' : State, (∀ i < 255, (leNat s.scalar).testBit i = (leNat s'.scalar).testBit i) →
    ∃ t t', exec .ladder s = .next t ∧ exec .ladder s' = .next t' ∧ t.out = t'.out ∧
      ∀ r : FReg, r.val < 6 → t.getF r = t'.getF r

/-- R194, an inference the spec marks as derived: from registers in the range of MULRED outputs (LINIT's constants are), an iteration leaves such registers,
and sums and differences of two elements in that range are exact and below 2^18. -/
def Obligations.LadderStaysInEnvelope : Prop :=
  (MulredRange kone ∧ MulredRange knine ∧ MulredRange kzero ∧ MulredRange ka24) ∧
  (∀ (r : Bool) (l : LadderRegs), MulredRange l.a → MulredRange l.b → MulredRange l.c → MulredRange l.d →
    MulredRange (ladderStep r l).a ∧ MulredRange (ladderStep r l).b ∧ MulredRange (ladderStep r l).c ∧
    MulredRange (ladderStep r l).d ∧ Within (ladderStep r l).e (2 ^ 18) ∧ MulredRange (ladderStep r l).f) ∧
  (∀ x y : Elem, MulredRange x → MulredRange y →
    Within (addLimbs x y) (2 ^ 18) ∧ Within (subLimbs x y) (2 ^ 18) ∧
    val (addLimbs x y) = val x + val y ∧ val (subLimbs x y) = val x - val y)

/-- R188 and the inference R194: one iteration on registers in that range is the textbook doubling and differential addition over GF(p),
on the points exchanged when the bit is 1. -/
def Obligations.LadderStepIsTextbookStep : Prop :=
  ∀ (r : Bool) (l : LadderRegs), MulredRange l.a → MulredRange l.b → MulredRange l.c → MulredRange l.d →
    pointsOf (ladderStep r l) = (pointsOf l).step r

/-- R195, an inference the spec marks as derived: OUT after LADDER is X · Z^(p−2) mod p in canonical form, where (X : Z) is the first point of the textbook
ladder on bits 254 to 0 of LE(SCALAR), from (1 : 0) and (9 : 1). The textbook ladder is from general knowledge, as
R195 says of the RFC's formulas. -/
def Obligations.LadderComputesTextbookLadder : Prop :=
  ∀ s : State, ∃ t, exec .ladder s = .next t ∧
    ((leNat t.out : Nat) : ZMod fieldPrime) =
      (Points.ladder (leNat s.scalar) 255 Points.start).x2
        * (Points.ladder (leNat s.scalar) 255 Points.start).z2 ^ (fieldPrime - 2) ∧
    leNat t.out < fieldPrime

/-- R197, an inference the spec marks as derived: a scalar whose bits 0 to 254 are clear gives 32 zero bytes and no error: a step on bit 0 entered with a = 1
and c = 0 leaves a = 1 and c = 0. -/
def Obligations.ZeroScalarGivesZero : Prop :=
  (∀ l : LadderRegs, l.a = limbs 1 → l.c = limbs 0 →
    (ladderStep false l).a = limbs 1 ∧ (ladderStep false l).c = limbs 0) ∧
  (∀ s : State, (∀ i < 255, (leNat s.scalar).testBit i = false) →
    ∃ t, exec .ladder s = .next t ∧ (∀ k : Fin 32, t.out[k] = 0x00) ∧ t.err = s.err ∧ t.errcode = s.errcode)

/-! ## Who writes what (10_state.md) -/

/-- R27: OUT is written only by FPACK, LFINISH and LADDER, and by no host write. -/
def Obligations.OutWrittenOnlyByPacking : Prop :=
  (∀ (i : Instr) (s t : State), exec i s = .next t → t.out ≠ s.out →
    (∃ s1, i = .fpack s1) ∨ i = .lfinish ∨ i = .ladder) ∧
  (∀ (s : State) (off : Offset) (v : Word), (s.busWrite off v).out = s.out)

/-- R28: LCOUNT is written only by LINIT (255), LSTEP (one less) and LADDER (0), and by no host write. -/
def Obligations.LcountWrittenOnlyByLadder : Prop :=
  (∀ (i : Instr) (s t : State), exec i s = .next t → t.lcount ≠ s.lcount →
    (i = .linit ∧ t.lcount = 255) ∨ (i = .lstep ∧ t.lcount = s.lcount - 1) ∨ (i = .ladder ∧ t.lcount = 0)) ∧
  (∀ (s : State) (off : Offset) (v : Word), (s.busWrite off v).lcount = s.lcount)

/-- R25, R26: the block never writes SCALAR or IN: a step that changes one is a host write to it while idle, or reset. -/
def Obligations.ScalarAndInWrittenOnlyByHost : Prop :=
  ∀ s t : State, step s = .next t →
    (t.scalar ≠ s.scalar → s.events.head? = some .reset ∨
      (s.busy = false ∧ ∃ off v j, s.events.head? = some (.hostWrite off v) ∧ portOf off = .scalar j)) ∧
    (t.inp ≠ s.inp → s.events.head? = some .reset ∨
      (s.busy = false ∧ ∃ off v j, s.events.head? = some (.hostWrite off v) ∧ portOf off = .inp j))

/-! ## The register map (20_memory.md) -/

/-- R61 to R63: what an idle block answers at every offset of the map. -/
def Obligations.IdleReadMap : Prop :=
  ∀ s : State, s.busy = false →
    s.busRead 0x000 = 0x58323535 ∧ s.busRead 0x004 = s.ctrlWord ∧ s.busRead 0x008 = s.statusWord ∧
    s.busRead 0x00C = 0 ∧ (s.busRead 0x010).toNat = s.lcount.toNat ∧
    (∀ off : Offset, (0x014 ≤ off.toNat ∧ off.toNat < 0x020) ∨ (0x080 ≤ off.toNat ∧ off.toNat < 0x400) →
      s.busRead off = 0) ∧
    (∀ (j : Fin 8) (m : Fin 4),
      (s.busRead (BitVec.ofNat 11 (0x020 + 4 * j))).extractLsb' (8 * m) 8 = s.scalar[4 * j.val + m.val] ∧
      (s.busRead (BitVec.ofNat 11 (0x040 + 4 * j))).extractLsb' (8 * m) 8 = s.inp[4 * j.val + m.val] ∧
      (s.busRead (BitVec.ofNat 11 (0x060 + 4 * j))).extractLsb' (8 * m) 8 = s.out[4 * j.val + m.val]) ∧
    (∀ (r : FReg) (i : Fin 16),
      s.busRead (BitVec.ofNat 11 (0x400 + 0x80 * r + 8 * i)) = (s.getF r)[i].extractLsb' 0 32 ∧
      s.busRead (BitVec.ofNat 11 (0x400 + 0x80 * r + 8 * i + 4)) = (s.getF r)[i].extractLsb' 32 32)

/-- R68: address bits 1:0 are ignored by reads and writes. The two clauses about `offsetOf`, which host addresses reach
the block and as which offset, are the model's choice (DESIGN CHOICE, log 8) beside R60's map at BASE to BASE + 0x7FF:
R68 leaves that decoding to the platform. -/
def Obligations.WordAddressing : Prop :=
  (∀ (s : State) (off : Offset) (v : Word),
    s.busRead off = s.busRead (off &&& 0x7FC) ∧ s.busWrite off v = s.busWrite (off &&& 0x7FC) v) ∧
  (∀ off : Offset, offsetOf (Config.base + off.toNat) = some off) ∧
  (∀ addr : Nat, addr < Config.base ∨ Config.base + 0x800 ≤ addr → offsetOf addr = none)

/-- R72: while BUSY = 1 a read of LCOUNT, SCALAR, IN, OUT or the window returns 0; a write to CMD, SCALAR, IN or the
window changes no register and is a rejection with ERR_BUSY; ID, CTRL and STATUS behave as when idle. -/
def Obligations.BusyAccesses : Prop :=
  ∀ (s : State) (off : Offset) (v : Word), s.busy = true →
    ((0x010 ≤ off.toNat ∧ off.toNat < 0x014) ∨ (0x020 ≤ off.toNat ∧ off.toNat < 0x080) ∨ 0x400 ≤ off.toNat →
      s.busRead off = 0) ∧
    ((0x00C ≤ off.toNat ∧ off.toNat < 0x010) ∨ (0x020 ≤ off.toNat ∧ off.toNat < 0x060) ∨ 0x400 ≤ off.toNat →
      s.busWrite off v = { s with err := true, errcode := if s.err then s.errcode else 2 }) ∧
    (off.toNat < 0x00C → s.busRead off = s.idleRead (portOf off) ∧
      (s.busWrite off v).busy = true ∧
      { s.busWrite off v with busy := false } = ({ s with busy := false } : State).busWrite off v)

/-- R72, R268: "no secret-dependent intermediate leaks through the bus": two busy blocks whose CTRL and STATUS agree,
whatever their other registers and commands, answer any sequence of host accesses alike, as long as neither
completes. -/
def Obligations.HostLearnsNothingWhileBusy : Prop :=
  ∀ (es : List Event) (s s' : State), (∀ e ∈ es, isHostAccess e) → s.busy = true → s'.busy = true →
    s.irqEn = s'.irqEn → s.done = s'.done → s.err = s'.err → s.errcode = s'.errcode → s.reads = s'.reads →
    ∃ t t', core.run es.length ({ s with events := es } : State) = .next t ∧
      core.run es.length ({ s' with events := es } : State) = .next t' ∧
      t.reads = t'.reads ∧ t.busy = true ∧ t'.busy = true

/-- R64: while idle a read of a window word returns that half of that limb's pattern, and a write sets that half; the
other half and every other word of the map read as before. -/
def Obligations.WindowWriteSetsHalf : Prop :=
  ∀ (s : State) (r : FReg) (i : Fin 16) (h : Fin 2) (v : Word), s.busy = false →
    ∃ t, s.busWrite (BitVec.ofNat 11 (0x400 + 0x80 * r + 8 * i + 4 * h)) v = t ∧
      (s.busRead (BitVec.ofNat 11 (0x400 + 0x80 * r + 8 * i + 4 * h))).toNat
        = (s.getF r)[i].toNat / 2 ^ (32 * h.val) % 2 ^ 32 ∧
      t.busRead (BitVec.ofNat 11 (0x400 + 0x80 * r + 8 * i + 4 * h)) = v ∧
      (∀ off : Offset, off.toNat / 4 ≠ (0x400 + 0x80 * r + 8 * i + 4 * h.val) / 4 → t.busRead off = s.busRead off) ∧
      ((t.getF r)[i].toNat = if h.val = 0 then (s.getF r)[i].toNat / 2 ^ 32 * 2 ^ 32 + v.toNat
        else v.toNat * 2 ^ 32 + (s.getF r)[i].toNat % 2 ^ 32) ∧
      { t with f := s.f } = s

/-- R62: while idle a write to word j of SCALAR or IN sets bytes 4j to 4j+3, byte 4j from bits 7:0, and no other. -/
def Obligations.ByteRegisterWrite : Prop :=
  ∀ (s : State) (j : Fin 8) (v : Word), s.busy = false →
    (∃ t, s.busWrite (BitVec.ofNat 11 (0x020 + 4 * j)) v = t ∧
      (∀ k : Fin 32, t.scalar[k] = if k.val / 4 = j.val then v.extractLsb' (8 * (k.val % 4)) 8 else s.scalar[k]) ∧
      t.busRead (BitVec.ofNat 11 (0x020 + 4 * j)) = v ∧ { t with scalar := s.scalar } = s) ∧
    (∃ t, s.busWrite (BitVec.ofNat 11 (0x040 + 4 * j)) v = t ∧
      (∀ k : Fin 32, t.inp[k] = if k.val / 4 = j.val then v.extractLsb' (8 * (k.val % 4)) 8 else s.inp[k]) ∧
      t.busRead (BitVec.ofNat 11 (0x040 + 4 * j)) = v ∧ { t with inp := s.inp } = s)

/-- R66, R67: writes to ID, LCOUNT, OUT and reserved offsets are ignored without error, busy or not; reserved offsets
and CMD read 0 at all times. -/
def Obligations.ReadOnlyAndReserved : Prop :=
  (∀ (s : State) (off : Offset) (v : Word),
    off.toNat < 0x004 ∨ (0x010 ≤ off.toNat ∧ off.toNat < 0x020) ∨ (0x060 ≤ off.toNat ∧ off.toNat < 0x400) →
      s.busWrite off v = s) ∧
  (∀ (s : State) (off : Offset), (0x00C ≤ off.toNat ∧ off.toNat < 0x010) ∨ (0x014 ≤ off.toNat ∧ off.toNat < 0x020) ∨
    (0x080 ≤ off.toNat ∧ off.toNat < 0x400) → s.busRead off = 0) ∧
  (∀ (s : State) (i : Nat), (1 ≤ i → (s.busRead 0x004).getLsbD i = false) ∧
    (i = 3 ∨ 9 ≤ i → (s.busRead 0x008).getLsbD i = false) ∧ (8 ≤ i → (s.busRead 0x010).getLsbD i = false))

/-- R37: ID reads 0x58323535 at any time, also while busy, and ignores writes. -/
def Obligations.IdConstant : Prop :=
  ∀ (s : State) (v : Word), s.busRead 0x000 = 0x58323535 ∧ s.busWrite 0x000 v = s

/-- R71: writes outside CMD and STATUS, while idle, change no status; and every write but one to CMD is idempotent. -/
def Obligations.AccessesIdempotent : Prop :=
  (∀ (s : State) (off : Offset) (v : Word), s.busy = false → portOf off ≠ .cmd → portOf off ≠ .status →
    (s.busWrite off v).busy = false ∧ (s.busWrite off v).done = s.done ∧ (s.busWrite off v).err = s.err ∧
    (s.busWrite off v).errcode = s.errcode ∧ (s.busWrite off v).cur = s.cur) ∧
  (∀ (s : State) (off : Offset) (v : Word), portOf off ≠ .cmd →
    (s.busWrite off v).busWrite off v = s.busWrite off v) ∧
  (∀ (s : State) (off : Offset), { s.hostRead off with reads := s.reads } = s)

/-! ## Control, status, errors and completion (10_state.md, 60_exceptions.md) -/

/-- R31: CTRL bit 0 is IRQ_EN, readable and writable busy or not; the other bits read 0 and ignore writes. -/
def Obligations.CtrlRegister : Prop :=
  ∀ (s : State) (v : Word), s.busWrite 0x004 v = { s with irqEn := v.getLsbD 0 } ∧
    (s.busRead 0x004).toNat = s.irqEn.toNat

/-- R32, R36: the bits of STATUS, busy or not; STATUS.IRQ is `IRQ_EN & (DONE | ERR)`, the level of `irq`. -/
def Obligations.StatusRegister : Prop :=
  ∀ s : State,
    (s.busRead 0x008).toNat = s.busy.toNat + 2 * s.done.toNat + 4 * s.err.toNat + 16 * s.errcode.toNat
      + 256 * s.irq.toNat ∧
    (s.irq = true ↔ s.irqEn = true ∧ (s.done = true ∨ s.err = true))

/-- R34, R35, R231: a write to STATUS clears DONE where bit 1 is 1 and ERR with ERRCODE where bit 2 is 1, changes nothing
else, and so takes `irq` low when it clears both. -/
def Obligations.StatusWriteOneToClear : Prop :=
  ∀ (s : State) (v : Word),
    s.busWrite 0x008 v =
      { s with
        done := if v.getLsbD 1 then false else s.done
        err := if v.getLsbD 2 then false else s.err
        errcode := if v.getLsbD 2 then 0 else s.errcode } ∧
    (v.getLsbD 1 = true → v.getLsbD 2 = true → (s.busWrite 0x008 v).irq = false)

/-- R224, R225, R226, R228: a command write, in the order BUSY, illegal, LSTEP with LCOUNT = 0, accepted. -/
def Obligations.CommandWriteHandling : Prop :=
  ∀ (s : State) (w : Word),
    (s.busy = true → s.busWrite 0x00C w = { s with err := true, errcode := if s.err then s.errcode else 2 }) ∧
    (s.busy = false → (∃ e, decode w = .error e) →
      s.busWrite 0x00C w = { s with err := true, errcode := if s.err then s.errcode else 1 }) ∧
    (s.busy = false → (∃ i, decode w = .ok i) → w.extractLsb' 0 8 = 0x11 → s.lcount = 0 →
      s.busWrite 0x00C w = { s with err := true, errcode := if s.err then s.errcode else 3 }) ∧
    (s.busy = false → (∃ i, decode w = .ok i) → ¬ (w.extractLsb' 0 8 = 0x11 ∧ s.lcount = 0) →
      s.busWrite 0x00C w = { s with cur := w, busy := true, done := false })

/-- R223, R230: a command in flight that passed the checks of R224 completes with BUSY = 0 and DONE = 1, and reports
no error. -/
def Obligations.AcceptedCommandCompletes : Prop :=
  ∀ s : State, BlockInv s → s.busy = true → ∃ t, engineTurn s = .next t ∧ Completed s t

/-- R33 to R35, R222, R225: the invariant of the in-flight command and the error report is kept by every event. -/
def Obligations.StepKeepsInvariant : Prop := ∀ s t : State, BlockInv s → step s = .next t → BlockInv t

/-- The invariant holds at reset (R41). -/
def Obligations.ResetMeetsInvariant : Prop := BlockInv State.reset

/-- R267: a command in flight completes, here with no reset among the events to come: BUSY is 0 after at most one step
more than there are events, and from a state that meets the invariant it completes with DONE = 1 (R230). The bound rests
on the model's choice that the engine's turn comes when no event is left (DESIGN CHOICE, log 2); in the first clause,
which asks for no invariant, a CUR that no run leaves in flight (an illegal word, or LSTEP with LCOUNT = 0) ends by the
model's choices of log 5 and log 4. -/
def Obligations.CommandInFlightCompletes : Prop :=
  (∀ s : State, s.busy = true → .reset ∉ s.events →
    ∃ k ≤ s.events.length + 1, ∃ t, core.run k s = .next t ∧ t.busy = false) ∧
  (∀ s : State, BlockInv s → s.busy = true → .reset ∉ s.events →
    ∃ k ≤ s.events.length + 1, ∃ t, core.run k s = .next t ∧ t.busy = false ∧ t.done = true)

/-- R74, an inference the spec marks as derived, and R266: the result of an accepted command is the one computed from the state at its acceptance, whatever the
host writes or reads between acceptance and completion. -/
def Obligations.ResultFixedAtAcceptance : Prop :=
  ∀ (s : State) (i : Instr) (es : List Event), s.busy = false → ¬ (i = .lstep ∧ s.lcount = 0) →
    (∀ e ∈ es, isHostAccess e) →
    ∃ t u, core.run (es.length + 2) ({ s with events := .hostWrite 0x00C (encode i) :: (es ++ [.engine]) } : State) = .next t ∧
      exec i s = .next u ∧ t.f = u.f ∧ t.out = u.out ∧ t.lcount = u.lcount ∧ t.scalar = s.scalar ∧ t.inp = s.inp ∧
      t.busy = false ∧ t.done = true
end

