-- ==== Sys2Proof/Laws/Decode.lean ====
section
/-! SUPPORT. One specification lemma per function of the decoder and the encoder (spec/30_encoding.md R91 to R98). -/

namespace Sys2Proof

/-! ### Specifiers -/

theorem FReg.spec_toNat (r : FReg) : (FReg.spec r).toNat = r.val := by revert r; decide

theorem Src.spec_le (s : Src) : s.spec.toNat ≤ 0xB := by
  cases s with
  | reg r => revert r; decide
  | kzero => decide
  | kone => decide
  | knine => decide
  | ka24 => decide

@[simp] theorem decodeDst_spec (r : FReg) : decodeDst (FReg.spec r) = .ok r := by revert r; decide

@[simp] theorem decodeSrc_spec (s : Src) : decodeSrc s.spec = .ok s := by
  cases s with
  | reg r => revert r; decide
  | kzero => decide
  | kone => decide
  | knine => decide
  | ka24 => decide

theorem decodeDst_eq_ok (v : BitVec 4) (r : FReg) : decodeDst v = .ok r ↔ v = FReg.spec r := by
  revert v r; decide

theorem decodeSrc_eq_ok (v : BitVec 4) (s : Src) : decodeSrc v = .ok s ↔ v = s.spec := by
  refine ⟨fun h => ?_, fun h => h ▸ decodeSrc_spec s⟩
  have all : ∀ u : BitVec 4, (decodeSrc u).toOption.all (fun t => u == t.spec) = true := by decide
  have := all v
  rw [h] at this
  simpa [Except.toOption] using this

@[simp] theorem decodeUnused_zero (n : Nat) : decodeUnused 0#n = .ok () := by simp [decodeUnused]

theorem decodeUnused_eq_ok {n : Nat} (v : BitVec n) (u : Unit) : decodeUnused v = .ok u ↔ v = 0#n := by
  unfold decodeUnused; split <;> simp_all

/-- A check and what follows it both pass. -/
theorem except_bind_eq_ok {ε α β : Type} (x : Except ε α) (f : α → Except ε β) (b : β) :
    (x >>= f) = .ok b ↔ ∃ a, x = .ok a ∧ f a = .ok b := by
  cases x <;> simp [bind, Except.bind]

/-! ### Fields and words -/

@[simp] theorem Command.ofWord_word (c : Command) : Command.ofWord c.word = c := by
  obtain ⟨op, rd, rs1, rs2, s, rsv⟩ := c
  simp only [Command.ofWord, Command.word, Command.mk.injEq]
  refine ⟨?_, ?_, ?_, ?_, ?_, ?_⟩ <;>
    (refine BitVec.eq_of_getLsbD_eq fun i hi => ?_
     simp only [BitVec.getLsbD_extractLsb', BitVec.getLsbD_append]
     interval_cases i <;> simp)

@[simp] theorem Command.word_ofWord (w : Word) : (Command.ofWord w).word = w := by
  refine BitVec.eq_of_getLsbD_eq fun i hi => ?_
  simp only [Command.ofWord, Command.word, BitVec.getLsbD_extractLsb', BitVec.getLsbD_append]
  interval_cases i <;> simp

theorem decode_encode_command (i : Instr) : decode (encode i) = decodeCommand i.command := by
  simp [decode, encode]

end Sys2Proof
end

