-- ==== Sys2Proof/Laws/State.lean ====
section
/-! SUPPORT. One lemma per field per update of the state, true by rfl: a proof about an operation cites these and does not
unfold the record update. The proofs are written `(rfl)` so that simp keeps each rewrite as a proof step: a chain of
plain rfl lemmas is checked again by unfolding, which can run MULRED, INV or PACK. -/

namespace Sys2Proof.Machine

/-! ### `setF` -/

@[simp] theorem State.setF_f (s : State) (r : FReg) (v : Elem) : (s.setF r v).f = s.f.set r v := (rfl)
@[simp] theorem State.setF_scalar (s : State) (r : FReg) (v : Elem) : (s.setF r v).scalar = s.scalar := (rfl)
@[simp] theorem State.setF_inp (s : State) (r : FReg) (v : Elem) : (s.setF r v).inp = s.inp := (rfl)
@[simp] theorem State.setF_out (s : State) (r : FReg) (v : Elem) : (s.setF r v).out = s.out := (rfl)
@[simp] theorem State.setF_lcount (s : State) (r : FReg) (v : Elem) : (s.setF r v).lcount = s.lcount := (rfl)
@[simp] theorem State.setF_irqEn (s : State) (r : FReg) (v : Elem) : (s.setF r v).irqEn = s.irqEn := (rfl)
@[simp] theorem State.setF_busy (s : State) (r : FReg) (v : Elem) : (s.setF r v).busy = s.busy := (rfl)
@[simp] theorem State.setF_done (s : State) (r : FReg) (v : Elem) : (s.setF r v).done = s.done := (rfl)
@[simp] theorem State.setF_err (s : State) (r : FReg) (v : Elem) : (s.setF r v).err = s.err := (rfl)
@[simp] theorem State.setF_errcode (s : State) (r : FReg) (v : Elem) : (s.setF r v).errcode = s.errcode := (rfl)
@[simp] theorem State.setF_cur (s : State) (r : FReg) (v : Elem) : (s.setF r v).cur = s.cur := (rfl)
@[simp] theorem State.setF_events (s : State) (r : FReg) (v : Elem) : (s.setF r v).events = s.events := (rfl)
@[simp] theorem State.setF_reads (s : State) (r : FReg) (v : Elem) : (s.setF r v).reads = s.reads := (rfl)

/-! ### `raise` -/

@[simp] theorem State.raise_f (s : State) (c : ErrCode) : (s.raise c).f = s.f := (rfl)
@[simp] theorem State.raise_scalar (s : State) (c : ErrCode) : (s.raise c).scalar = s.scalar := (rfl)
@[simp] theorem State.raise_inp (s : State) (c : ErrCode) : (s.raise c).inp = s.inp := (rfl)
@[simp] theorem State.raise_out (s : State) (c : ErrCode) : (s.raise c).out = s.out := (rfl)
@[simp] theorem State.raise_lcount (s : State) (c : ErrCode) : (s.raise c).lcount = s.lcount := (rfl)
@[simp] theorem State.raise_irqEn (s : State) (c : ErrCode) : (s.raise c).irqEn = s.irqEn := (rfl)
@[simp] theorem State.raise_busy (s : State) (c : ErrCode) : (s.raise c).busy = s.busy := (rfl)
@[simp] theorem State.raise_done (s : State) (c : ErrCode) : (s.raise c).done = s.done := (rfl)
@[simp] theorem State.raise_err (s : State) (c : ErrCode) : (s.raise c).err = true := (rfl)
@[simp] theorem State.raise_errcode (s : State) (c : ErrCode) : (s.raise c).errcode = if s.err then s.errcode else c.code := (rfl)
@[simp] theorem State.raise_cur (s : State) (c : ErrCode) : (s.raise c).cur = s.cur := (rfl)
@[simp] theorem State.raise_events (s : State) (c : ErrCode) : (s.raise c).events = s.events := (rfl)
@[simp] theorem State.raise_reads (s : State) (c : ErrCode) : (s.raise c).reads = s.reads := (rfl)

/-! ### `acknowledge` -/

@[simp] theorem State.acknowledge_f (s : State) (a b : Bool) : (s.acknowledge a b).f = s.f := (rfl)
@[simp] theorem State.acknowledge_scalar (s : State) (a b : Bool) : (s.acknowledge a b).scalar = s.scalar := (rfl)
@[simp] theorem State.acknowledge_inp (s : State) (a b : Bool) : (s.acknowledge a b).inp = s.inp := (rfl)
@[simp] theorem State.acknowledge_out (s : State) (a b : Bool) : (s.acknowledge a b).out = s.out := (rfl)
@[simp] theorem State.acknowledge_lcount (s : State) (a b : Bool) : (s.acknowledge a b).lcount = s.lcount := (rfl)
@[simp] theorem State.acknowledge_irqEn (s : State) (a b : Bool) : (s.acknowledge a b).irqEn = s.irqEn := (rfl)
@[simp] theorem State.acknowledge_busy (s : State) (a b : Bool) : (s.acknowledge a b).busy = s.busy := (rfl)
@[simp] theorem State.acknowledge_done (s : State) (a b : Bool) : (s.acknowledge a b).done = (s.done && !a) := (rfl)
@[simp] theorem State.acknowledge_err (s : State) (a b : Bool) : (s.acknowledge a b).err = (s.err && !b) := (rfl)
@[simp] theorem State.acknowledge_errcode (s : State) (a b : Bool) : (s.acknowledge a b).errcode = if b then 0 else s.errcode := (rfl)
@[simp] theorem State.acknowledge_cur (s : State) (a b : Bool) : (s.acknowledge a b).cur = s.cur := (rfl)
@[simp] theorem State.acknowledge_events (s : State) (a b : Bool) : (s.acknowledge a b).events = s.events := (rfl)
@[simp] theorem State.acknowledge_reads (s : State) (a b : Bool) : (s.acknowledge a b).reads = s.reads := (rfl)

/-! ### `accept` -/

@[simp] theorem State.accept_f (s : State) (w : Word) : (s.accept w).f = s.f := (rfl)
@[simp] theorem State.accept_scalar (s : State) (w : Word) : (s.accept w).scalar = s.scalar := (rfl)
@[simp] theorem State.accept_inp (s : State) (w : Word) : (s.accept w).inp = s.inp := (rfl)
@[simp] theorem State.accept_out (s : State) (w : Word) : (s.accept w).out = s.out := (rfl)
@[simp] theorem State.accept_lcount (s : State) (w : Word) : (s.accept w).lcount = s.lcount := (rfl)
@[simp] theorem State.accept_irqEn (s : State) (w : Word) : (s.accept w).irqEn = s.irqEn := (rfl)
@[simp] theorem State.accept_busy (s : State) (w : Word) : (s.accept w).busy = true := (rfl)
@[simp] theorem State.accept_done (s : State) (w : Word) : (s.accept w).done = false := (rfl)
@[simp] theorem State.accept_err (s : State) (w : Word) : (s.accept w).err = s.err := (rfl)
@[simp] theorem State.accept_errcode (s : State) (w : Word) : (s.accept w).errcode = s.errcode := (rfl)
@[simp] theorem State.accept_cur (s : State) (w : Word) : (s.accept w).cur = w := (rfl)
@[simp] theorem State.accept_events (s : State) (w : Word) : (s.accept w).events = s.events := (rfl)
@[simp] theorem State.accept_reads (s : State) (w : Word) : (s.accept w).reads = s.reads := (rfl)

/-! ### `complete` -/

@[simp] theorem State.complete_f (s : State) : (s.complete).f = s.f := (rfl)
@[simp] theorem State.complete_scalar (s : State) : (s.complete).scalar = s.scalar := (rfl)
@[simp] theorem State.complete_inp (s : State) : (s.complete).inp = s.inp := (rfl)
@[simp] theorem State.complete_out (s : State) : (s.complete).out = s.out := (rfl)
@[simp] theorem State.complete_lcount (s : State) : (s.complete).lcount = s.lcount := (rfl)
@[simp] theorem State.complete_irqEn (s : State) : (s.complete).irqEn = s.irqEn := (rfl)
@[simp] theorem State.complete_busy (s : State) : (s.complete).busy = false := (rfl)
@[simp] theorem State.complete_done (s : State) : (s.complete).done = true := (rfl)
@[simp] theorem State.complete_err (s : State) : (s.complete).err = s.err := (rfl)
@[simp] theorem State.complete_errcode (s : State) : (s.complete).errcode = s.errcode := (rfl)
@[simp] theorem State.complete_cur (s : State) : (s.complete).cur = s.cur := (rfl)
@[simp] theorem State.complete_events (s : State) : (s.complete).events = s.events := (rfl)
@[simp] theorem State.complete_reads (s : State) : (s.complete).reads = s.reads := (rfl)

/-! ### `rejectInFlight` -/

@[simp] theorem State.rejectInFlight_f (s : State) (c : ErrCode) : (s.rejectInFlight c).f = s.f := (rfl)
@[simp] theorem State.rejectInFlight_scalar (s : State) (c : ErrCode) : (s.rejectInFlight c).scalar = s.scalar := (rfl)
@[simp] theorem State.rejectInFlight_inp (s : State) (c : ErrCode) : (s.rejectInFlight c).inp = s.inp := (rfl)
@[simp] theorem State.rejectInFlight_out (s : State) (c : ErrCode) : (s.rejectInFlight c).out = s.out := (rfl)
@[simp] theorem State.rejectInFlight_lcount (s : State) (c : ErrCode) : (s.rejectInFlight c).lcount = s.lcount := (rfl)
@[simp] theorem State.rejectInFlight_irqEn (s : State) (c : ErrCode) : (s.rejectInFlight c).irqEn = s.irqEn := (rfl)
@[simp] theorem State.rejectInFlight_busy (s : State) (c : ErrCode) : (s.rejectInFlight c).busy = false := (rfl)
@[simp] theorem State.rejectInFlight_done (s : State) (c : ErrCode) : (s.rejectInFlight c).done = s.done := (rfl)
@[simp] theorem State.rejectInFlight_err (s : State) (c : ErrCode) : (s.rejectInFlight c).err = true := (rfl)
@[simp] theorem State.rejectInFlight_errcode (s : State) (c : ErrCode) : (s.rejectInFlight c).errcode = if s.err then s.errcode else c.code := (rfl)
@[simp] theorem State.rejectInFlight_cur (s : State) (c : ErrCode) : (s.rejectInFlight c).cur = s.cur := (rfl)
@[simp] theorem State.rejectInFlight_events (s : State) (c : ErrCode) : (s.rejectInFlight c).events = s.events := (rfl)
@[simp] theorem State.rejectInFlight_reads (s : State) (c : ErrCode) : (s.rejectInFlight c).reads = s.reads := (rfl)

/-! ### `setLadderRegs` -/

@[simp] theorem State.setLadderRegs_f (s : State) (l : LadderRegs) : (s.setLadderRegs l).f = #v[l.a, l.b, l.c, l.d, l.e, l.f, s.f[6], s.f[7]] := (rfl)
@[simp] theorem State.setLadderRegs_scalar (s : State) (l : LadderRegs) : (s.setLadderRegs l).scalar = s.scalar := (rfl)
@[simp] theorem State.setLadderRegs_inp (s : State) (l : LadderRegs) : (s.setLadderRegs l).inp = s.inp := (rfl)
@[simp] theorem State.setLadderRegs_out (s : State) (l : LadderRegs) : (s.setLadderRegs l).out = s.out := (rfl)
@[simp] theorem State.setLadderRegs_lcount (s : State) (l : LadderRegs) : (s.setLadderRegs l).lcount = s.lcount := (rfl)
@[simp] theorem State.setLadderRegs_irqEn (s : State) (l : LadderRegs) : (s.setLadderRegs l).irqEn = s.irqEn := (rfl)
@[simp] theorem State.setLadderRegs_busy (s : State) (l : LadderRegs) : (s.setLadderRegs l).busy = s.busy := (rfl)
@[simp] theorem State.setLadderRegs_done (s : State) (l : LadderRegs) : (s.setLadderRegs l).done = s.done := (rfl)
@[simp] theorem State.setLadderRegs_err (s : State) (l : LadderRegs) : (s.setLadderRegs l).err = s.err := (rfl)
@[simp] theorem State.setLadderRegs_errcode (s : State) (l : LadderRegs) : (s.setLadderRegs l).errcode = s.errcode := (rfl)
@[simp] theorem State.setLadderRegs_cur (s : State) (l : LadderRegs) : (s.setLadderRegs l).cur = s.cur := (rfl)
@[simp] theorem State.setLadderRegs_events (s : State) (l : LadderRegs) : (s.setLadderRegs l).events = s.events := (rfl)
@[simp] theorem State.setLadderRegs_reads (s : State) (l : LadderRegs) : (s.setLadderRegs l).reads = s.reads := (rfl)

/-! ### `hostRead` -/

@[simp] theorem State.hostRead_f (s : State) (off : Offset) : (s.hostRead off).f = s.f := (rfl)
@[simp] theorem State.hostRead_scalar (s : State) (off : Offset) : (s.hostRead off).scalar = s.scalar := (rfl)
@[simp] theorem State.hostRead_inp (s : State) (off : Offset) : (s.hostRead off).inp = s.inp := (rfl)
@[simp] theorem State.hostRead_out (s : State) (off : Offset) : (s.hostRead off).out = s.out := (rfl)
@[simp] theorem State.hostRead_lcount (s : State) (off : Offset) : (s.hostRead off).lcount = s.lcount := (rfl)
@[simp] theorem State.hostRead_irqEn (s : State) (off : Offset) : (s.hostRead off).irqEn = s.irqEn := (rfl)
@[simp] theorem State.hostRead_busy (s : State) (off : Offset) : (s.hostRead off).busy = s.busy := (rfl)
@[simp] theorem State.hostRead_done (s : State) (off : Offset) : (s.hostRead off).done = s.done := (rfl)
@[simp] theorem State.hostRead_err (s : State) (off : Offset) : (s.hostRead off).err = s.err := (rfl)
@[simp] theorem State.hostRead_errcode (s : State) (off : Offset) : (s.hostRead off).errcode = s.errcode := (rfl)
@[simp] theorem State.hostRead_cur (s : State) (off : Offset) : (s.hostRead off).cur = s.cur := (rfl)
@[simp] theorem State.hostRead_events (s : State) (off : Offset) : (s.hostRead off).events = s.events := (rfl)
@[simp] theorem State.hostRead_reads (s : State) (off : Offset) : (s.hostRead off).reads = s.busRead off :: s.reads := (rfl)

/-! ### `loadCommand` -/

@[simp] theorem State.loadCommand_f (s : State) (w : Word) : (s.loadCommand w).f = s.f := (rfl)
@[simp] theorem State.loadCommand_scalar (s : State) (w : Word) : (s.loadCommand w).scalar = s.scalar := (rfl)
@[simp] theorem State.loadCommand_inp (s : State) (w : Word) : (s.loadCommand w).inp = s.inp := (rfl)
@[simp] theorem State.loadCommand_out (s : State) (w : Word) : (s.loadCommand w).out = s.out := (rfl)
@[simp] theorem State.loadCommand_lcount (s : State) (w : Word) : (s.loadCommand w).lcount = s.lcount := (rfl)
@[simp] theorem State.loadCommand_irqEn (s : State) (w : Word) : (s.loadCommand w).irqEn = s.irqEn := (rfl)
@[simp] theorem State.loadCommand_busy (s : State) (w : Word) : (s.loadCommand w).busy = true := (rfl)
@[simp] theorem State.loadCommand_done (s : State) (w : Word) : (s.loadCommand w).done = false := (rfl)
@[simp] theorem State.loadCommand_err (s : State) (w : Word) : (s.loadCommand w).err = s.err := (rfl)
@[simp] theorem State.loadCommand_errcode (s : State) (w : Word) : (s.loadCommand w).errcode = s.errcode := (rfl)
@[simp] theorem State.loadCommand_cur (s : State) (w : Word) : (s.loadCommand w).cur = w := (rfl)
@[simp] theorem State.loadCommand_events (s : State) (w : Word) : (s.loadCommand w).events = .engine :: s.events := (rfl)
@[simp] theorem State.loadCommand_reads (s : State) (w : Word) : (s.loadCommand w).reads = s.reads := (rfl)

/-! ### `applyReset` -/

@[simp] theorem State.applyReset_f (s : State) : s.applyReset.f = State.reset.f := (rfl)
@[simp] theorem State.applyReset_scalar (s : State) : s.applyReset.scalar = State.reset.scalar := (rfl)
@[simp] theorem State.applyReset_inp (s : State) : s.applyReset.inp = State.reset.inp := (rfl)
@[simp] theorem State.applyReset_out (s : State) : s.applyReset.out = State.reset.out := (rfl)
@[simp] theorem State.applyReset_lcount (s : State) : s.applyReset.lcount = State.reset.lcount := (rfl)
@[simp] theorem State.applyReset_irqEn (s : State) : s.applyReset.irqEn = State.reset.irqEn := (rfl)
@[simp] theorem State.applyReset_busy (s : State) : s.applyReset.busy = State.reset.busy := (rfl)
@[simp] theorem State.applyReset_done (s : State) : s.applyReset.done = State.reset.done := (rfl)
@[simp] theorem State.applyReset_err (s : State) : s.applyReset.err = State.reset.err := (rfl)
@[simp] theorem State.applyReset_errcode (s : State) : s.applyReset.errcode = State.reset.errcode := (rfl)
@[simp] theorem State.applyReset_cur (s : State) : s.applyReset.cur = State.reset.cur := (rfl)
@[simp] theorem State.applyReset_events (s : State) : s.applyReset.events = s.events := (rfl)
@[simp] theorem State.applyReset_reads (s : State) : s.applyReset.reads = s.reads := (rfl)

end Sys2Proof.Machine
end

