-- ==== Sys2Proof/Laws/Ops.lean ====
section
/-! SUPPORT. One specification lemma per shared operation on the state: the register file, byte registers, halves of
a limb, the status bits. -/

namespace Sys2Proof.Machine

/-! ### The register file -/

theorem State.getF_setF (s : State) (r q : FReg) (v : Elem) :
    (s.setF r v).getF q = if r = q then v else s.getF q := by
  simp only [State.getF, State.setF, Fin.getElem_fin, Vector.getElem_set, Fin.ext_iff]

@[simp] theorem State.getF_setF_same (s : State) (r : FReg) (v : Elem) : (s.setF r v).getF r = v := by
  simp [State.getF_setF]

theorem State.getF_setF_other (s : State) {r q : FReg} (v : Elem) (h : q ≠ r) :
    (s.setF r v).getF q = s.getF q := by
  simp [State.getF_setF, Ne.symm h]

@[simp] theorem State.getF_complete (s : State) (r : FReg) : s.complete.getF r = s.getF r := (rfl)

@[simp] theorem State.getF_ladderRegs (s : State) :
    s.ladderRegs = ⟨s.getF 0, s.getF 1, s.getF 2, s.getF 3, s.getF 4, s.getF 5⟩ := (rfl)

/-! ### Operands -/

@[simp] theorem State.opnd_reg (s : State) (r : FReg) : s.opnd (.reg r) = s.getF r := (rfl)
@[simp] theorem State.opnd_kzero (s : State) : s.opnd .kzero = kzero := (rfl)
@[simp] theorem State.opnd_kone (s : State) : s.opnd .kone = kone := (rfl)
@[simp] theorem State.opnd_knine (s : State) : s.opnd .knine = knine := (rfl)
@[simp] theorem State.opnd_ka24 (s : State) : s.opnd .ka24 = ka24 := (rfl)

/-! ### Byte registers -/

theorem bytesOf_getElem (v : Nat) {k : Nat} (h : k < 32) : (bytesOf v)[k] = BitVec.ofNat 8 (v / 256 ^ k) := by
  simp only [bytesOf, Vector.getElem_ofFn, Nat.shiftRight_eq_div_pow, Nat.pow_mul]

theorem setWord_getElem (b : ByteReg) (j : Fin 8) (v : Word) {k : Nat} (h : k < 32) :
    (setWord b j v)[k] = if k / 4 = j.val then v.extractLsb' (8 * (k % 4)) 8 else b[k] := by
  simp [setWord]

theorem leNat_eq_sum (b : ByteReg) : leNat b = ∑ k : Fin 32, b[k].toNat * 256 ^ k.val := by
  rw [Fin.sum_univ_def]; rfl

/-! ### Halves of a limb -/

theorem getHalf_setHalf_same (x : Limb) (h : Bool) (v : Word) : getHalf (setHalf x h v) h = v := by
  cases h
  · apply BitVec.eq_of_getLsbD_eq
    intro i hi
    have := BitVec.getLsbD_append (x := x.extractLsb' 32 32) (y := v) (i := i)
    simpa [getHalf, setHalf, BitVec.getLsbD_extractLsb', hi] using this
  · apply BitVec.eq_of_getLsbD_eq
    intro i hi
    have := BitVec.getLsbD_append (x := v) (y := x.extractLsb' 0 32) (i := 32 + i)
    simpa [getHalf, setHalf, BitVec.getLsbD_extractLsb', hi] using this

theorem getHalf_setHalf_other (x : Limb) (h : Bool) (v : Word) : getHalf (setHalf x h v) (!h) = getHalf x (!h) := by
  cases h
  · apply BitVec.eq_of_getLsbD_eq
    intro i hi
    have := BitVec.getLsbD_append (x := x.extractLsb' 32 32) (y := v) (i := 32 + i)
    simpa [getHalf, setHalf, BitVec.getLsbD_extractLsb', hi] using this
  · apply BitVec.eq_of_getLsbD_eq
    intro i hi
    have := BitVec.getLsbD_append (x := v) (y := x.extractLsb' 0 32) (i := i)
    simpa [getHalf, setHalf, BitVec.getLsbD_extractLsb', hi] using this

/-! ### Status -/

theorem State.irq_complete (s : State) : s.complete.irq = s.irqEn := by simp [State.irq]

theorem State.raise_of_err (s : State) (c : ErrCode) (h : s.err = true) : s.raise c = s := by
  cases s; simp only at h; subst h; rfl

theorem State.raise_raise (s : State) (c d : ErrCode) : (s.raise c).raise d = s.raise c :=
  State.raise_of_err _ d rfl

end Sys2Proof.Machine
end

