-- ==== Sys2Proof/Laws/Field.lean ====
section
/-! SUPPORT. One specification lemma per function on field elements (spec/40_field_arith.md R120 to R123): what each
limb of its result is. -/

namespace Sys2Proof.Machine

theorem wrap64_toInt (n : Int) : (wrap64 n).toInt = n.bmod (2 ^ 64) := by simp [wrap64]

theorem wrap64_toInt_of_range {n : Int} (h : -2 ^ 63 ≤ n) (h' : n < 2 ^ 63) : (wrap64 n).toInt = n := by
  rw [wrap64_toInt]; rw [Int.bmod_def]; omega

@[simp] theorem wrap64_of_toInt (x : Limb) : wrap64 x.toInt = x := by simp [wrap64]

theorem wrap64_add (m n : Int) : wrap64 (m + n) = wrap64 m + wrap64 n := by simp [wrap64, BitVec.ofInt_add]

theorem wrap64_mul (m n : Int) : wrap64 (m * n) = wrap64 m * wrap64 n := by simp [wrap64, BitVec.ofInt_mul]

theorem asr_sixteen (n : Int) : asr n 16 = n / 65536 := by
  simp [asr, Int.fdiv_eq_ediv_of_nonneg]

theorem addLimbs_getElem (x y : Elem) {i : Nat} (h : i < 16) : (addLimbs x y)[i] = x[i] + y[i] := by
  simp [addLimbs, wrap64_add]

theorem wrap64_sub (m n : Int) : wrap64 (m - n) = wrap64 m - wrap64 n := by
  rw [Int.sub_eq_add_neg, wrap64_add, BitVec.sub_eq_add_neg]
  simp [wrap64, BitVec.ofInt_neg]

theorem subLimbs_getElem (x y : Elem) {i : Nat} (h : i < 16) : (subLimbs x y)[i] = x[i] - y[i] := by
  simp [subLimbs, wrap64_sub]

/-- CSWAP exchanges its operands or leaves them, limb for limb (R136). -/
theorem cswap_eq (x y : Elem) (flag : Bool) : cswap x y flag = if flag then (y, x) else (x, y) := by
  have key : ∀ u v : Elem, xorLimbs u (swapDiff u v flag) = if flag then v else u := by
    intro u v
    refine Vector.ext fun i hi => ?_
    have ones : ∀ z : Limb, u[i] ^^^ (swapMask true &&& (u[i] ^^^ z)) = z := by
      intro z
      rw [show swapMask true = BitVec.allOnes 64 by decide, BitVec.allOnes_and, ← BitVec.xor_assoc, BitVec.xor_self,
        BitVec.zero_xor]
    cases flag
    · simp [xorLimbs, swapDiff, swapMask]
    · simpa [xorLimbs, swapDiff] using ones v[i]
  have comm : swapDiff x y flag = swapDiff y x flag := by
    simp only [swapDiff, BitVec.xor_comm]
  simp only [cswap]
  rw [key x y, comm, key y x]
  cases flag <;> rfl

/-- What step i of CARRY leaves in limb k (R120). -/
theorem carryStep_getElem (x : Elem) (i : Fin 16) {k : Nat} (h : k < 16) :
    (carryStep x i)[k] =
      if k = i.val then wrap64 (x[i].toInt % 65536)
      else if k = (i.val + 1) % 16 then
        wrap64 (x[k].toInt + (if i.val = 15 then 38 else 1) * (x[i].toInt / 65536))
      else x[k] := by
  unfold carryStep
  simp only [asr_sixteen]
  split
  · rename_i hi
    rw [Vector.getElem_set]
    by_cases h1 : i.val + 1 = k
    · subst h1
      have : (i.val + 1) % 16 = i.val + 1 := by omega
      have : ¬ i.val = 15 := by omega
      simp [*]
    · have h2 : ¬ k = (i.val + 1) % 16 := by omega
      simp only [h1, h2, if_false]
      rw [Vector.getElem_set]
      by_cases h3 : i.val = k
      · subst h3; simp
      · simp [h3, Ne.symm h3]
  · rename_i hi
    have hi : i.val = 15 := by omega
    rw [Vector.getElem_set]
    by_cases h1 : k = 0
    · subst h1; simp [hi]
    · have h2 : ¬ (0 = k) := by omega
      have h4 : ¬ k = (i.val + 1) % 16 := by omega
      simp only [h2, h4, if_false]
      rw [Vector.getElem_set]
      by_cases h3 : i.val = k
      · subst h3; simp
      · simp [h3, Ne.symm h3]

theorem column_eq_sum (a b : Elem) (k : Nat) :
    column a b k = ∑ i : Fin 16, if i.val ≤ k then a[i].toInt * limbInt b (k - i.val) else 0 := by
  rw [Fin.sum_univ_def]; rfl

theorem val_eq_sum (x : Elem) : val x = ∑ i : Fin 16, x[i].toInt * ((2 ^ (16 * i.val) : Nat) : Int) := by
  rw [Fin.sum_univ_def]; rfl

theorem product_getElem (a b : Elem) {k : Nat} (h : k < 16) : (product a b)[k] = wrap64 (folded a b k) := by
  simp [product]

theorem unpack_getElem (b : ByteReg) {i : Nat} (h : i < 16) :
    (unpack b)[i] = BitVec.ofNat 64 (b[2 * i].toNat + 256 * b[2 * i + 1].toNat) := by
  simp [unpack]

theorem limbs_getElem (v : Nat) {i : Nat} (h : i < 16) :
    (limbs v)[i] = BitVec.ofNat 64 (v / 2 ^ (16 * i) % 2 ^ 16) := by
  simp [limbs]

theorem invLoop_succ (a c : Elem) (k : Nat) : invLoop a (k + 1) c = invLoop a k (invStep a c k) := rfl

end Sys2Proof.Machine
end

