-- ==== Sys2Proof/Laws/Ladder.lean ====
section
/-! SUPPORT. The ladder's bodies (spec/42_ladder.md R187 to R190): what each leaves as it was, the register file each
writes, and the same for any number of LSTEP bodies in a row. -/

namespace Sys2Proof.Machine

/-! ### `linitBody` -/

@[simp] theorem linitBody_scalar (s : State) : (linitBody s).scalar = s.scalar := (rfl)
@[simp] theorem linitBody_inp (s : State) : (linitBody s).inp = s.inp := (rfl)
@[simp] theorem linitBody_out (s : State) : (linitBody s).out = s.out := (rfl)
@[simp] theorem linitBody_irqEn (s : State) : (linitBody s).irqEn = s.irqEn := (rfl)
@[simp] theorem linitBody_busy (s : State) : (linitBody s).busy = s.busy := (rfl)
@[simp] theorem linitBody_done (s : State) : (linitBody s).done = s.done := (rfl)
@[simp] theorem linitBody_err (s : State) : (linitBody s).err = s.err := (rfl)
@[simp] theorem linitBody_errcode (s : State) : (linitBody s).errcode = s.errcode := (rfl)
@[simp] theorem linitBody_cur (s : State) : (linitBody s).cur = s.cur := (rfl)
@[simp] theorem linitBody_events (s : State) : (linitBody s).events = s.events := (rfl)
@[simp] theorem linitBody_reads (s : State) : (linitBody s).reads = s.reads := (rfl)

/-! ### `lstepBody` -/

@[simp] theorem lstepBody_scalar (s : State) : (lstepBody s).scalar = s.scalar := (rfl)
@[simp] theorem lstepBody_inp (s : State) : (lstepBody s).inp = s.inp := (rfl)
@[simp] theorem lstepBody_out (s : State) : (lstepBody s).out = s.out := (rfl)
@[simp] theorem lstepBody_irqEn (s : State) : (lstepBody s).irqEn = s.irqEn := (rfl)
@[simp] theorem lstepBody_busy (s : State) : (lstepBody s).busy = s.busy := (rfl)
@[simp] theorem lstepBody_done (s : State) : (lstepBody s).done = s.done := (rfl)
@[simp] theorem lstepBody_err (s : State) : (lstepBody s).err = s.err := (rfl)
@[simp] theorem lstepBody_errcode (s : State) : (lstepBody s).errcode = s.errcode := (rfl)
@[simp] theorem lstepBody_cur (s : State) : (lstepBody s).cur = s.cur := (rfl)
@[simp] theorem lstepBody_events (s : State) : (lstepBody s).events = s.events := (rfl)
@[simp] theorem lstepBody_reads (s : State) : (lstepBody s).reads = s.reads := (rfl)

/-! ### `lfinishBody` -/

@[simp] theorem lfinishBody_scalar (s : State) : (lfinishBody s).scalar = s.scalar := (rfl)
@[simp] theorem lfinishBody_inp (s : State) : (lfinishBody s).inp = s.inp := (rfl)
@[simp] theorem lfinishBody_lcount (s : State) : (lfinishBody s).lcount = s.lcount := (rfl)
@[simp] theorem lfinishBody_irqEn (s : State) : (lfinishBody s).irqEn = s.irqEn := (rfl)
@[simp] theorem lfinishBody_busy (s : State) : (lfinishBody s).busy = s.busy := (rfl)
@[simp] theorem lfinishBody_done (s : State) : (lfinishBody s).done = s.done := (rfl)
@[simp] theorem lfinishBody_err (s : State) : (lfinishBody s).err = s.err := (rfl)
@[simp] theorem lfinishBody_errcode (s : State) : (lfinishBody s).errcode = s.errcode := (rfl)
@[simp] theorem lfinishBody_cur (s : State) : (lfinishBody s).cur = s.cur := (rfl)
@[simp] theorem lfinishBody_events (s : State) : (lfinishBody s).events = s.events := (rfl)
@[simp] theorem lfinishBody_reads (s : State) : (lfinishBody s).reads = s.reads := (rfl)

@[simp] theorem linitBody_lcount (s : State) : (linitBody s).lcount = 255 := (rfl)
@[simp] theorem lstepBody_lcount (s : State) : (lstepBody s).lcount = s.lcount - 1 := (rfl)

/-- F6 and F7 are never touched by the ladder (R185). -/
theorem State.getF_setLadderRegs_high (s : State) (l : LadderRegs) :
    (s.setLadderRegs l).getF 6 = s.getF 6 ∧ (s.setLadderRegs l).getF 7 = s.getF 7 := ⟨rfl, rfl⟩

theorem State.ladderRegs_setLadderRegs (s : State) (l : LadderRegs) : (s.setLadderRegs l).ladderRegs = l := (rfl)

@[simp] theorem lstepBody_ladderRegs (s : State) :
    (lstepBody s).ladderRegs = ladderStep (bitAt s.scalar (s.lcount - 1)) s.ladderRegs := (rfl)

@[simp] theorem linitBody_ladderRegs (s : State) :
    (linitBody s).ladderRegs = { s.ladderRegs with a := kone, b := knine, c := kzero, d := kone } := (rfl)

/-! ### The register file and OUT after a body

Cite these, not the definitions: a comparison of two states field by field that unfolds PACK or INV does not end. -/

theorem lfinishBody_eq (s : State) :
    lfinishBody s = { (s.setF 2 (inverse (s.getF 2))).setF 0 (mulred (s.getF 0) (inverse (s.getF 2))) with
      out := pack (mulred (s.getF 0) (inverse (s.getF 2))) } := by
  unfold lfinishBody; rfl

theorem lfinishBody_f (s : State) :
    (lfinishBody s).f = (s.f.set 2 (inverse (s.getF 2))).set 0 (mulred (s.getF 0) (inverse (s.getF 2))) := by
  unfold lfinishBody; rfl

theorem lfinishBody_out (s : State) : (lfinishBody s).out = pack (mulred (s.getF 0) (inverse (s.getF 2))) := by
  unfold lfinishBody; rfl

theorem lfinishBody_getF_zero (s : State) :
    (lfinishBody s).getF 0 = mulred (s.getF 0) (inverse (s.getF 2)) := by
  simp [State.getF, lfinishBody_f]

theorem lfinishBody_getF_other (s : State) {r : FReg} (h0 : r ≠ 0) (h2 : r ≠ 2) :
    (lfinishBody s).getF r = s.getF r := by
  have n0 : ¬ (0 : Nat) = r.val := fun e => h0 (Fin.ext e.symm)
  have n2 : ¬ (2 : Nat) = r.val := fun e => h2 (Fin.ext e.symm)
  simp only [State.getF, lfinishBody_f, Fin.getElem_fin, Vector.getElem_set, n0, n2, if_false]

theorem lstepBody_f (s : State) :
    (lstepBody s).f = (s.setLadderRegs (ladderStep (bitAt s.scalar (s.lcount - 1)) s.ladderRegs)).f := (rfl)

theorem linitBody_f (s : State) :
    (linitBody s).f = #v[kone, knine, kzero, kone, s.f[4], s.f[5], s.f[6], s.f[7]] := (rfl)

/-! ### LSTEP bodies in a row -/

theorem lstepLoop_succ (n : Nat) (s : State) : lstepLoop (n + 1) s = lstepLoop n (lstepBody s) := (rfl)

theorem lstepLoop_succ' (n : Nat) (s : State) : lstepLoop (n + 1) s = lstepBody (lstepLoop n s) := by
  induction n generalizing s with
  | zero => rfl
  | succ n ih => rw [lstepLoop_succ, ih, lstepLoop_succ]

@[simp] theorem lstepLoop_scalar (n : Nat) (s : State) : (lstepLoop n s).scalar = s.scalar := by
  induction n generalizing s with
  | zero => rfl
  | succ n ih => rw [lstepLoop_succ, ih, lstepBody_scalar]

@[simp] theorem lstepLoop_inp (n : Nat) (s : State) : (lstepLoop n s).inp = s.inp := by
  induction n generalizing s with
  | zero => rfl
  | succ n ih => rw [lstepLoop_succ, ih, lstepBody_inp]

@[simp] theorem lstepLoop_out (n : Nat) (s : State) : (lstepLoop n s).out = s.out := by
  induction n generalizing s with
  | zero => rfl
  | succ n ih => rw [lstepLoop_succ, ih, lstepBody_out]

@[simp] theorem lstepLoop_irqEn (n : Nat) (s : State) : (lstepLoop n s).irqEn = s.irqEn := by
  induction n generalizing s with
  | zero => rfl
  | succ n ih => rw [lstepLoop_succ, ih, lstepBody_irqEn]

@[simp] theorem lstepLoop_busy (n : Nat) (s : State) : (lstepLoop n s).busy = s.busy := by
  induction n generalizing s with
  | zero => rfl
  | succ n ih => rw [lstepLoop_succ, ih, lstepBody_busy]

@[simp] theorem lstepLoop_done (n : Nat) (s : State) : (lstepLoop n s).done = s.done := by
  induction n generalizing s with
  | zero => rfl
  | succ n ih => rw [lstepLoop_succ, ih, lstepBody_done]

@[simp] theorem lstepLoop_err (n : Nat) (s : State) : (lstepLoop n s).err = s.err := by
  induction n generalizing s with
  | zero => rfl
  | succ n ih => rw [lstepLoop_succ, ih, lstepBody_err]

@[simp] theorem lstepLoop_errcode (n : Nat) (s : State) : (lstepLoop n s).errcode = s.errcode := by
  induction n generalizing s with
  | zero => rfl
  | succ n ih => rw [lstepLoop_succ, ih, lstepBody_errcode]

@[simp] theorem lstepLoop_cur (n : Nat) (s : State) : (lstepLoop n s).cur = s.cur := by
  induction n generalizing s with
  | zero => rfl
  | succ n ih => rw [lstepLoop_succ, ih, lstepBody_cur]

@[simp] theorem lstepLoop_events (n : Nat) (s : State) : (lstepLoop n s).events = s.events := by
  induction n generalizing s with
  | zero => rfl
  | succ n ih => rw [lstepLoop_succ, ih, lstepBody_events]

@[simp] theorem lstepLoop_reads (n : Nat) (s : State) : (lstepLoop n s).reads = s.reads := by
  induction n generalizing s with
  | zero => rfl
  | succ n ih => rw [lstepLoop_succ, ih, lstepBody_reads]

theorem lstepLoop_lcount (n : Nat) (s : State) : (lstepLoop n s).lcount = s.lcount - BitVec.ofNat 8 n := by
  induction n generalizing s with
  | zero => simp [lstepLoop]
  | succ n ih =>
    rw [lstepLoop_succ, ih, lstepBody_lcount, BitVec.ofNat_add]
    bv_omega

theorem lstepLoop_getF_high (n : Nat) (s : State) :
    (lstepLoop n s).getF 6 = s.getF 6 ∧ (lstepLoop n s).getF 7 = s.getF 7 := by
  induction n generalizing s with
  | zero => exact ⟨rfl, rfl⟩
  | succ n ih => rw [lstepLoop_succ]; exact ih (lstepBody s)

end Sys2Proof.Machine
end

