-- ==== Sys2Proof/Laws/Exec.lean ====
section
/-! SUPPORT. What `exec` answers for each command, one equation per arm (spec/40_field_arith.md, 41_codec.md,
42_ladder.md). A proof that rewrites with these never has to unfold MULRED, INV or PACK: a check by unfolding that
compares a result with the function that computes it evaluates the function. -/

namespace Sys2Proof.Machine

theorem exec_fadd (d : FReg) (s1 s2 : Src) (s : State) :
    exec (.fadd d s1 s2) s = .next (s.setF d (addLimbs (s.opnd s1) (s.opnd s2))).complete := rfl

theorem exec_fsub (d : FReg) (s1 s2 : Src) (s : State) :
    exec (.fsub d s1 s2) s = .next (s.setF d (subLimbs (s.opnd s1) (s.opnd s2))).complete := rfl

theorem exec_fmul (d : FReg) (s1 s2 : Src) (s : State) :
    exec (.fmul d s1 s2) s = .next (s.setF d (mulred (s.opnd s1) (s.opnd s2))).complete := rfl

theorem exec_fcarry (d : FReg) (s : State) :
    exec (.fcarry d) s = .next (s.setF d (carry (s.getF d))).complete := rfl

theorem exec_fcswap (a b : FReg) (flag : Bool) (s : State) :
    exec (.fcswap a b flag) s =
      .next ((s.setF a (cswap (s.getF a) (s.getF b) flag).1).setF b (cswap (s.getF a) (s.getF b) flag).2).complete := rfl

theorem exec_finv (d : FReg) (s1 : Src) (s : State) :
    exec (.finv d s1) s = .next (s.setF d (inverse (s.opnd s1))).complete := rfl

theorem exec_funpack (d : FReg) (s : State) :
    exec (.funpack d) s = .next (s.setF d (unpack s.inp)).complete := rfl

theorem exec_fpack (s1 : Src) (s : State) :
    exec (.fpack s1) s = .next ({ s with out := pack (s.opnd s1) } : State).complete := rfl

theorem exec_linit (s : State) : exec .linit s = .next (linitBody s).complete := rfl

theorem exec_lstep (s : State) (h : s.lcount ≠ 0) : exec .lstep s = .next (lstepBody s).complete := by
  simp only [exec, execLstep, if_neg h]

theorem exec_lstep_zero (s : State) (h : s.lcount = 0) : exec .lstep s = .next (s.rejectInFlight .lstate) := by
  simp only [exec, execLstep, if_pos h]

theorem exec_lfinish (s : State) : exec .lfinish s = .next (lfinishBody s).complete := by
  simp only [exec, execLfinish]

theorem exec_ladder (s : State) :
    exec .ladder s = .next (lfinishBody (lstepLoop 255 (linitBody s))).complete := by
  simp only [exec, execLadder]

end Sys2Proof.Machine
end

