-- ==== Sys2Proof/Laws/PerInstr.lean ====
section
/-! SUPPORT. The family `EncodesLegal`: every command is written as a legal command word (spec/30_encoding.md R98).
One lemma per constructor of `Instr`. -/

namespace Sys2Proof.Laws.EncodesLegal

/-- The command an instruction is encoded as has none of the faults of R98. -/
def Statement (i : Instr) : Prop := i.wellFormed = true

/-- Legality spelled out over the rows of the map (R97, R98). -/
theorem wellFormed_iff (c : Command) :
    c.wellFormed = true ↔ c.opAssigned = true ∧ c.rsv = 0 ∧
      ∀ row ∈ opcodeMap, row.op = c.op → row.fieldsAllowed c = true := by
  simp only [Command.wellFormed, Command.rsvClear, Bool.and_eq_true, beq_iff_eq, List.all_eq_true, Bool.or_eq_true,
    bne_iff_ne, and_assoc]
  refine and_congr_right fun _ => and_congr_right fun _ => forall_congr' fun row => forall_congr' fun _ => ?_
  exact ⟨fun h e => h.resolve_left (· e), fun h => or_iff_not_imp_left.2 fun n => h (not_not.1 n)⟩

theorem fadd (d : FReg) (s1 s2 : Src) : Statement (.fadd d s1 s2) := by
  have := FReg.spec_toNat d; have := Src.spec_le s1; have := Src.spec_le s2; have := d.isLt
  simp [Statement, Instr.wellFormed, wellFormed_iff, Instr.command, Command.opAssigned, opcodeMap, OpRow.fieldsAllowed,
    FieldKind.allows]
  omega

theorem fsub (d : FReg) (s1 s2 : Src) : Statement (.fsub d s1 s2) := by
  have := FReg.spec_toNat d; have := Src.spec_le s1; have := Src.spec_le s2; have := d.isLt
  simp [Statement, Instr.wellFormed, wellFormed_iff, Instr.command, Command.opAssigned, opcodeMap, OpRow.fieldsAllowed,
    FieldKind.allows]
  omega

theorem fmul (d : FReg) (s1 s2 : Src) : Statement (.fmul d s1 s2) := by
  have := FReg.spec_toNat d; have := Src.spec_le s1; have := Src.spec_le s2; have := d.isLt
  simp [Statement, Instr.wellFormed, wellFormed_iff, Instr.command, Command.opAssigned, opcodeMap, OpRow.fieldsAllowed,
    FieldKind.allows]
  omega

theorem fcarry (d : FReg) : Statement (.fcarry d) := by
  revert d; unfold Statement; decide

theorem fcswap (a b : FReg) (flag : Bool) : Statement (.fcswap a b flag) := by
  revert a b flag; unfold Statement; decide

theorem finv (d : FReg) (s1 : Src) : Statement (.finv d s1) := by
  have := FReg.spec_toNat d; have := Src.spec_le s1; have := d.isLt
  simp [Statement, Instr.wellFormed, wellFormed_iff, Instr.command, Command.opAssigned, opcodeMap, OpRow.fieldsAllowed,
    FieldKind.allows]
  omega

theorem funpack (d : FReg) : Statement (.funpack d) := by
  revert d; unfold Statement; decide

theorem fpack (s1 : Src) : Statement (.fpack s1) := by
  have := Src.spec_le s1
  simp [Statement, Instr.wellFormed, wellFormed_iff, Instr.command, Command.opAssigned, opcodeMap, OpRow.fieldsAllowed,
    FieldKind.allows]
  omega

theorem linit : Statement .linit := by unfold Statement; decide

theorem lstep : Statement .lstep := by unfold Statement; decide

theorem lfinish : Statement .lfinish := by unfold Statement; decide

theorem ladder : Statement .ladder := by unfold Statement; decide

end Sys2Proof.Laws.EncodesLegal
end

