-- ==== Sys2Proof/Laws/Step.lean ====
section
/-! SUPPORT. What one event can do, said once: inversion lemmas for the command write, the bus write, the engine's
turn and the step (spec/60_exceptions.md R224; spec/70_reset_and_hazards.md R264 to R266). -/

namespace Sys2Proof.Machine

/-! ### The register map -/

theorem portOf_at_0x00C : portOf 0x00C = .cmd := by decide

theorem wordIndex_lt (off : Offset) : wordIndex off < 512 := by unfold wordIndex; omega

/-- The ranges of word numbers and what each is (R61, R63). -/
theorem portAt_cases (n : Nat) :
    (n = 0 ∧ portAt n = .id) ∨ (n = 1 ∧ portAt n = .ctrl) ∨ (n = 2 ∧ portAt n = .status) ∨ (n = 3 ∧ portAt n = .cmd) ∨
    (n = 4 ∧ portAt n = .lcount) ∨ ((5 ≤ n ∧ n < 8 ∨ 32 ≤ n ∧ n < 256) ∧ portAt n = .reserved) ∨
    (8 ≤ n ∧ n < 16 ∧ portAt n = .scalar (Fin.ofNat 8 (n - 8))) ∨
    (16 ≤ n ∧ n < 24 ∧ portAt n = .inp (Fin.ofNat 8 (n - 16))) ∨
    (24 ≤ n ∧ n < 32 ∧ portAt n = .out (Fin.ofNat 8 (n - 24))) ∨
    (256 ≤ n ∧ portAt n =
      .window (Fin.ofNat 8 ((n - 256) / 32)) (Fin.ofNat 16 ((n - 256) / 2)) ((n - 256) % 2 == 1)) := by
  by_cases h0 : n = 0; · subst h0; simp [portAt]
  by_cases h1 : n = 1; · subst h1; simp [portAt]
  by_cases h2 : n = 2; · subst h2; simp [portAt]
  by_cases h3 : n = 3; · subst h3; simp [portAt]
  by_cases h4 : n = 4; · subst h4; simp [portAt]
  by_cases h8 : n < 8; · simp [portAt, *]; omega
  by_cases h16 : n < 16; · simp [portAt, *]; omega
  by_cases h24 : n < 24; · simp [portAt, *]; omega
  by_cases h32 : n < 32; · simp [portAt, *]; omega
  by_cases h256 : n < 256; · simp [portAt, *]; omega
  simp [portAt, *]; omega

/-! ### Writes -/

/-- The four outcomes of a command write (R224). -/
theorem writeCmd_cases (s : State) (w : Word) :
    (s.busy = true ∧ s.writeCmd w = s.raise .busy) ∨
    (s.busy = false ∧ (∃ e, decode w = .error e) ∧ s.writeCmd w = s.raise .illegal) ∨
    (s.busy = false ∧ (∃ i, decode w = .ok i) ∧ w.extractLsb' 0 8 = 0x11 ∧ s.lcount = 0
      ∧ s.writeCmd w = s.raise .lstate) ∨
    (s.busy = false ∧ (∃ i, decode w = .ok i) ∧ ¬ (w.extractLsb' 0 8 = 0x11 ∧ s.lcount = 0)
      ∧ s.writeCmd w = s.accept w) := by
  unfold State.writeCmd
  cases hb : s.busy
  · cases hd : decode w with
    | error e => exact .inr (.inl ⟨rfl, ⟨e, rfl⟩, rfl⟩)
    | ok i =>
      by_cases h : w.extractLsb' 0 8 = 0x11 ∧ s.lcount = 0
      · exact .inr (.inr (.inl ⟨rfl, ⟨i, rfl⟩, h.1, h.2, by simp [h]⟩))
      · exact .inr (.inr (.inr ⟨rfl, ⟨i, rfl⟩, h, by simp only [Bool.false_eq_true, if_false, if_neg h]⟩))
  · exact .inl ⟨rfl, rfl⟩

/-- What a host write can leave: nothing changed, CTRL or STATUS written, the outcomes of a command write, ERR_BUSY, or
one data register written while idle (R61, R66, R72). -/
theorem busWrite_cases (s : State) (off : Offset) (v : Word) :
    s.busWrite off v = s ∨ s.busWrite off v = s.writeCtrl v ∨ s.busWrite off v = s.writeStatus v ∨
    s.busWrite off v = s.writeCmd v ∨ (s.busy = true ∧ s.busWrite off v = s.raise .busy) ∨
    (s.busy = false ∧ ∃ j, portOf off = .scalar j ∧ s.busWrite off v = { s with scalar := setWord s.scalar j v }) ∨
    (s.busy = false ∧ ∃ j, portOf off = .inp j ∧ s.busWrite off v = { s with inp := setWord s.inp j v }) ∨
    (s.busy = false ∧ ∃ r i h, portOf off = .window r i h ∧
      s.busWrite off v = s.setF r ((s.getF r).set i (setHalf (s.getF r)[i] h v))) := by
  unfold State.busWrite
  cases portOf off with
  | window r i h =>
    cases hb : s.busy
    · exact .inr (.inr (.inr (.inr (.inr (.inr (.inr ⟨rfl, r, i, h, rfl, by simp [State.writePort, State.writeData, hb]⟩))))))
    · exact .inr (.inr (.inr (.inr (.inl ⟨rfl, by simp [State.writePort, State.writeData, hb]⟩))))
  | _ => (simp only [State.writePort, State.writeData]; cases s.busy <;> simp)

/-! ### The engine and the step -/

theorem engineTurn_idle (s : State) (h : s.busy = false) : engineTurn s = .next s := by simp [engineTurn, h]

theorem engineTurn_ok (s : State) {i : Instr} (h : s.busy = true) (hd : decode s.cur = .ok i) :
    engineTurn s = exec i s := by simp [engineTurn, h, hd]

/-- The three outcomes of the engine's turn (R266, log 3, log 5). -/
theorem engineTurn_cases (s : State) :
    (s.busy = false ∧ engineTurn s = .next s) ∨
    (s.busy = true ∧ ∃ i, decode s.cur = .ok i ∧ engineTurn s = exec i s) ∨
    (s.busy = true ∧ (∃ e, decode s.cur = .error e) ∧ engineTurn s = .next (s.rejectInFlight .illegal)) := by
  unfold engineTurn
  cases hb : s.busy
  · exact .inl ⟨rfl, rfl⟩
  · cases hd : decode s.cur with
    | ok i => exact .inr (.inl ⟨rfl, i, rfl, rfl⟩)
    | error e => exact .inr (.inr ⟨rfl, ⟨e, rfl⟩, rfl⟩)

/-- What a step is, by the next event (R264, log 2). -/
theorem step_cases (s : State) :
    (s.events = [] ∧ step s = engineTurn s) ∨
    (∃ off es, s.events = .hostRead off :: es ∧ step s = .next (({ s with events := es } : State).hostRead off)) ∨
    (∃ off v es, s.events = .hostWrite off v :: es ∧ step s = .next (({ s with events := es } : State).busWrite off v)) ∨
    (∃ es, s.events = .engine :: es ∧ step s = engineTurn { s with events := es }) ∨
    (∃ es, s.events = .reset :: es ∧ step s = .next ({ s with events := es } : State).applyReset) := by
  unfold step nextEvent
  match h : s.events with
  | [] => exact .inl ⟨rfl, rfl⟩
  | .hostRead off :: es => exact .inr (.inl ⟨off, es, rfl, rfl⟩)
  | .hostWrite off v :: es => exact .inr (.inr (.inl ⟨off, v, es, rfl, rfl⟩))
  | .engine :: es => exact .inr (.inr (.inr (.inl ⟨es, rfl, rfl⟩)))
  | .reset :: es => exact .inr (.inr (.inr (.inr ⟨es, rfl, rfl⟩)))

/-! ### Runs -/

theorem core_run_zero (s : State) : core.run 0 s = .next s := rfl

theorem core_run_succ (k : Nat) {s t : State} (h : step s = .next t) : core.run (k + 1) s = core.run k t := by
  have h' : core.step s = .next t := h
  simp only [Host.Core.run, h']

end Sys2Proof.Machine
end

