-- ==== Sys2Proof/Tests/Slice0.lean ====
section
/-! SUPPORT. Tests. Expected values are the spec's: the examples of its rules, the tables V-… of
spec/95_test_vectors.md, or hand calculation from a rule, as each test says. The last section gives, for each
statement of Certificates/Slice0/Obligations.lean with hypotheses, states and operands that meet them. A MULRED costs
the kernel about a second, so no test runs a whole inversion or ladder. -/

namespace Sys2Proof.Tests

open Sys2Proof.Machine Sys2Proof.Claims

/-! ### Helpers -/

/-- The element with these limbs, the rest 0. -/
def elem (l : List Int) : Elem := Vector.ofFn fun i : Fin 16 => wrap64 (l.getD i.val 0)

/-- The element whose limbs are all `n`. -/
def uniform (n : Int) : Elem := Vector.ofFn fun _ : Fin 16 => wrap64 n

/-- The byte register with these bytes, the rest 0. -/
def bytes (l : List (BitVec 8)) : ByteReg := Vector.ofFn fun k : Fin 32 => l.getD k.val 0

/-- The byte register with byte k = k. -/
def counting : ByteReg := Vector.ofFn fun k : Fin 32 => BitVec.ofNat 8 k.val

/-- Reset with F0 and F1 set. -/
def start (f0 f1 : Elem) : State := (State.reset.setF 0 f0).setF 1 f1

/-- Reset with a command accepted. -/
def running (i : Instr) : State := State.reset.accept (encode i)

/-- Register r after a command. -/
def regAfter (i : Instr) (s : State) (r : FReg) : Option Elem :=
  match exec i s with
  | .next t => some (t.getF r)
  | .fault _ => none
  | .refused _ => none

/-- OUT after a command. -/
def outAfter (i : Instr) (s : State) : Option ByteReg :=
  match exec i s with
  | .next t => some t.out
  | .fault _ => none
  | .refused _ => none

/-- The block's words answered over a run, newest first. -/
def answers (es : List Event) (s : State) : Option (List Word) :=
  match core.run es.length ({ s with events := es } : State) with
  | .next t => some t.reads
  | .fault _ => none
  | .refused _ => none

/-! ### Well-formedness: one ill-formed command for each check of R98 -/

/-- (a): OP 0x07 is unassigned. -/
theorem test_illformed_opcode : (Command.mk 0x07 0 0 0 0 0).wellFormed = false := by decide

/-- (b): bit 21 set on FADD. -/
theorem test_illformed_reserved : (Command.mk 0x01 0 0 0 0 1).wellFormed = false := by decide

/-- (c): RD of FPACK, RS1 of FCARRY, RS2 of FINV and S of FADD must be 0. -/
theorem test_illformed_unused :
    (Command.mk 0x09 0xB 0 0 0 0).wellFormed = false ∧ (Command.mk 0x04 0 1 0 0 0).wellFormed = false ∧
    (Command.mk 0x06 0 0 1 0 0).wellFormed = false ∧ (Command.mk 0x01 0 0 0 1 0).wellFormed = false := by decide

/-- (d): source specifier 0xC in RS2 of FADD, 0xF in RS1 of FPACK. -/
theorem test_illformed_source :
    (Command.mk 0x01 0 0 0xC 0 0).wellFormed = false ∧ (Command.mk 0x09 0 0xF 0 0 0).wellFormed = false := by decide

/-- (e): destination specifier 8 in RD of FADD, in RS1 and in RS2 of FCSWAP. -/
theorem test_illformed_destination :
    (Command.mk 0x01 8 0 0 0 0).wellFormed = false ∧ (Command.mk 0x05 0 8 0 0 0).wellFormed = false ∧
    (Command.mk 0x05 0 0 8 0 0).wellFormed = false := by decide

/-! ### Decoding: words written out from R91, field by field (RSV S RS2 RS1 RD OP) -/

/-- FADD F4, F0, F2. -/
theorem test_decode_fadd : decode (0b00000000000#11 ++ 0b0#1 ++ 0b0010#4 ++ 0b0000#4 ++ 0b0100#4 ++ 0b00000001#8)
    = .ok (.fadd 4 (.reg 0) (.reg 2)) := by decide
/-- FSUB F5, KZERO, F1. -/
theorem test_decode_fsub : decode (0b00000000000#11 ++ 0b0#1 ++ 0b0001#4 ++ 0b1000#4 ++ 0b0101#4 ++ 0b00000010#8)
    = .ok (.fsub 5 .kzero (.reg 1)) := by decide
/-- FMUL F0, F2, KA24. -/
theorem test_decode_fmul : decode (0b00000000000#11 ++ 0b0#1 ++ 0b1011#4 ++ 0b0010#4 ++ 0b0000#4 ++ 0b00000011#8)
    = .ok (.fmul 0 (.reg 2) .ka24) := by decide
/-- FCARRY F6. -/
theorem test_decode_fcarry : decode (0b00000000000#11 ++ 0b0#1 ++ 0b0000#4 ++ 0b0000#4 ++ 0b0110#4 ++ 0b00000100#8)
    = .ok (.fcarry 6) := by decide
/-- FCSWAP F7, F1, 1. -/
theorem test_decode_fcswap : decode (0b00000000000#11 ++ 0b1#1 ++ 0b0001#4 ++ 0b0111#4 ++ 0b0000#4 ++ 0b00000101#8)
    = .ok (.fcswap 7 1 true) := by decide
/-- FINV F2, KNINE. -/
theorem test_decode_finv : decode (0b00000000000#11 ++ 0b0#1 ++ 0b0000#4 ++ 0b1010#4 ++ 0b0010#4 ++ 0b00000110#8)
    = .ok (.finv 2 .knine) := by decide
/-- FUNPACK F7. -/
theorem test_decode_funpack : decode (0b00000000000#11 ++ 0b0#1 ++ 0b0000#4 ++ 0b0000#4 ++ 0b0111#4 ++ 0b00001000#8)
    = .ok (.funpack 7) := by decide
/-- FPACK KONE. -/
theorem test_decode_fpack : decode (0b00000000000#11 ++ 0b0#1 ++ 0b0000#4 ++ 0b1001#4 ++ 0b0000#4 ++ 0b00001001#8)
    = .ok (.fpack .kone) := by decide
/-- LINIT, LSTEP, LFINISH, LADDER. -/
theorem test_decode_ladder_family : decode 0b00000000000000000000000000010000#32 = .ok .linit ∧
    decode 0b00000000000000000000000000010001#32 = .ok .lstep ∧
    decode 0b00000000000000000000000000010010#32 = .ok .lfinish ∧
    decode 0b00000000000000000000000000010011#32 = .ok .ladder := by decide

/-- V-E2: the illegal words, each by its cause. -/
theorem test_decode_illegal :
    decode 0x00000000 = .error .unassignedOpcode ∧ decode 0x00000007 = .error .unassignedOpcode ∧
    decode 0x000000FF = .error .unassignedOpcode ∧ decode 0x00200001 = .error .reservedBits ∧
    decode 0x00100001 = .error .unusedField ∧ decode 0x00000801 = .error .destinationSpecifier ∧
    decode 0x000C0001 = .error .sourceSpecifier ∧ decode 0x0000F009 = .error .sourceSpecifier ∧
    decode 0x00000B09 = .error .unusedField ∧ decode 0x00001004 = .error .unusedField ∧
    decode 0x00008005 = .error .destinationSpecifier ∧ decode 0x00000105 = .error .unusedField ∧
    decode 0x00C00006 = .error .reservedBits ∧ decode 0x00000113 = .error .unusedField := by decide

/-- The opcode table's numbering is the word itself; a number beyond 32 bits is no word. -/
theorem test_decode_table_word : decodeTableWord 32 0x000B2003 = some (.fmul 0 (.reg 2) .ka24) ∧
    decodeTableWord 32 0 = none ∧ decodeTableWord 40 (2 ^ 32 + 0x10) = none := by decide

/-! ### Field arithmetic -/

/-- V-F2: a sum that wraps a limb. -/
theorem test_fadd_wraps :
    regAfter (.fadd 0 (.reg 1) .kone) (start kzero (elem [2 ^ 63 - 1])) 0 = some (elem [-2 ^ 63]) := by decide +kernel
/-- V-F3: no carry between limbs. -/
theorem test_fadd_no_carry :
    regAfter (.fadd 0 (.reg 0) (.reg 1)) (start (uniform 0xFFFF) (uniform 0xFFFF)) 0 = some (uniform 0x1FFFE) := by
  decide +kernel

/-- V-F6: a difference that wraps a limb. -/
theorem test_fsub_wraps :
    regAfter (.fsub 0 (.reg 1) .kone) (start kzero (elem [-2 ^ 63])) 0 = some (elem [2 ^ 63 - 1]) := by decide +kernel
/-- V-F5: the order of the operands. -/
theorem test_fsub_order : regAfter (.fsub 0 .kone .knine) State.reset 0 = some (elem [-8]) := by decide +kernel

/-- V-F9: a negative limb borrows by the floor rule; limb 0 takes 38 times the carry last. -/
theorem test_fcarry_borrows :
    regAfter (.fcarry 0) (start (elem [-1]) kzero) 0 = some ((uniform 0xFFFF).set 0 0xFFD9) := by decide +kernel
/-- V-F14, limbs 0 to 2: a limb that wraps during the pass. -/
theorem test_fcarry_wraps :
    (regAfter (.fcarry 0) (start (uniform (2 ^ 63 - 1)) kzero) 0).map (fun x => (x[0], x[1], x[2]))
      = some (wrap64 (-0x12FFED00120001), 0xFFFE, 0xFFFE) := by decide +kernel

/-- V-F19: (p − 1)² comes out as the limbs of p + 1. -/
theorem test_fmul_not_canonical :
    regAfter (.fmul 0 (.reg 1) (.reg 1)) (start kzero (limbs (fieldPrime - 1))) 0 = some (limbs (fieldPrime + 1)) := by
  decide +kernel
/-- V-F22: outside the envelope a column wraps. -/
theorem test_fmul_wraps :
    regAfter (.fmul 1 (.reg 1) (.reg 1)) (start kzero (elem [2 ^ 40])) 1 = some kzero := by decide +kernel

/-- V-F27: the exchange keeps negative and large limbs. -/
theorem test_fcswap_exchanges :
    regAfter (.fcswap 0 1 true) (start (elem [-5]) (elem [0x10000000000, 7])) 0 = some (elem [0x10000000000, 7]) ∧
    regAfter (.fcswap 0 1 true) (start (elem [-5]) (elem [0x10000000000, 7])) 1 = some (elem [-5]) := by decide +kernel
/-- V-F26, V-F28: flag 0 keeps both, and one register exchanged with itself keeps its limbs. -/
theorem test_fcswap_keeps :
    regAfter (.fcswap 0 1 false) (start kone knine) 0 = some kone ∧
    regAfter (.fcswap 0 0 true) (start kone knine) 0 = some kone := by decide +kernel

/-- R123 by hand: with a = 2 and c = 3 the step at k = 2 squares to 9; the step at k = 5 goes on to 18. -/
theorem test_finv_step : invStep (limbs 2) (limbs 3) 2 = limbs 9 ∧ invStep (limbs 2) (limbs 3) 5 = limbs 18 := by
  decide +kernel

/-- 1 times 1 is 1, so a chain of such steps stays at 1. -/
theorem invLoop_one (n : Nat) : invLoop kone n kone = kone := by
  have one : mulred kone kone = kone := by decide +kernel
  induction n with
  | zero => rfl
  | succ n ih => rw [invLoop_succ, invStep, one, one, ite_self, ih]

/-- V-F30: the inverse of 1 is 1. -/
theorem test_finv_one : regAfter (.finv 2 .kone) State.reset 2 = some kone := by
  simp only [regAfter, exec_finv, State.getF_complete, State.getF_setF_same, State.opnd_kone, inverse, invLoop_one]

/-! ### Packing -/

/-- V-C13: IN[k] = k. -/
theorem test_funpack_counting :
    (regAfter (.funpack 3) { State.reset with inp := counting } 3).map (fun x => (x[0], x[1], x[15]))
      = some (0x0100, 0x0302, 0x1F1E) := by decide +kernel
/-- V-C15: bit 255 is kept. -/
theorem test_funpack_bit255 :
    regAfter (.funpack 0) { State.reset with inp := State.reset.inp.set 31 0x80 } 0
      = some ((uniform 0).set 15 0x8000) := by decide +kernel

/-- V-C9: the bytes of 121665. -/
theorem test_fpack_ka24 : outAfter (.fpack .ka24) State.reset = some (bytes [0x41, 0xDB, 0x01]) := by decide +kernel
/-- V-C7: a negative value gives p − 1. -/
theorem test_fpack_negative :
    outAfter (.fpack (.reg 0)) (start (elem [-1]) kzero)
      = some (((Vector.replicate 32 0xFF).set 0 0xEC).set 31 0x7F) := by decide +kernel
/-- V-C12: limbs of magnitude 2^63 (bytes 0, 1 and 31). -/
theorem test_fpack_largest_limbs :
    (outAfter (.fpack (.reg 0)) (start (uniform (-2 ^ 63)) kzero)).map (fun x => (x[0], x[1], x[31]))
      = some (0xDA, 0xFF, 0x7F) := by decide +kernel

/-! ### The ladder -/

/-- R187: F1 is 9 and F3 is 1 after LINIT. -/
theorem test_linit : regAfter .linit State.reset 1 = some (elem [9]) ∧ regAfter .linit State.reset 3 = some (elem [1]) := by
  decide +kernel

/-- The state V-L2 starts from: LINIT done, bit 254 of SCALAR set. -/
def beforeFirstStep : State := linitBody { State.reset with scalar := State.reset.scalar.set 31 0x40 }

/-- V-L2: the first LSTEP with bit 254 set. -/
theorem test_lstep_first :
    (lstepBody beforeFirstStep).ladderRegs =
      ⟨elem [0x144], elem [0x1900], elem [0x24], elem [0x720, 0x966], elem [0x12], elem [0x40]⟩ := by decide +kernel
/-- V-L2: LCOUNT after it. -/
theorem test_lstep_count : (lstepBody beforeFirstStep).lcount = 254 := by decide +kernel

/-- V-L3: F0 = 9, F2 = 1 gives OUT = 09 00 … 00. -/
theorem test_lfinish : outAfter .lfinish ((State.reset.setF 0 knine).setF 2 kone) = some (bytes [9]) := by
  have product : mulred knine kone = knine := by decide +kernel
  have packed : pack knine = bytes [9] := by decide +kernel
  simp only [outAfter, exec_lfinish, State.complete_out, lfinishBody_out, State.getF_setF_same,
    State.getF_setF_other _ _ (show (0 : FReg) ≠ 2 by decide), inverse, invLoop_one, product, packed]

/-- R190: LADDER leaves LCOUNT 0. -/
theorem test_ladder_count : (lstepLoop 255 (linitBody State.reset)).lcount = 0 := by
  rw [lstepLoop_lcount, linitBody_lcount]; decide

/-! ### The register map, errors, the step -/

/-- V-B1 and V-B4: reads after reset, with writes to ID, OUT and a reserved word between. -/
theorem test_map_after_reset :
    answers (HostSide.ld 0x000 ++ HostSide.st 0x000 0 ++ HostSide.st 0x060 0xFFFFFFFF ++ HostSide.st 0x100 1
      ++ HostSide.ld 0x000 ++ HostSide.ld 0x060 ++ HostSide.ld 0x008) State.reset
      = some [0x00000000, 0x00000000, 0x58323535, 0x58323535] := by decide +kernel

/-- V-B2: the halves of a limb, and 0x590 is the low half of F3 limb 2. -/
theorem test_map_window :
    answers (HostSide.st 0x404 0 ++ HostSide.ld 0x400 ++ HostSide.ld 0x404) (start (elem [-1]) kzero)
      = some [0x00000000, 0xFFFFFFFF] ∧ portOf 0x590 = .window 3 2 false ∧ portOf 0x594 = .window 3 2 true := by
  decide +kernel

/-- V-B3: bytes 70 07 6d 0a are word 0x0A6D0770, also at the address of another byte of the word. -/
theorem test_map_bytes :
    answers (HostSide.ld 0x021) { State.reset with scalar := bytes [0x70, 0x07, 0x6D, 0x0A] } = some [0x0A6D0770] := by
  decide +kernel

/-- V-L4, R222: LSTEP after reset is rejected with ERR_LSTATE, and a second rejection keeps the first code. -/
theorem test_lstep_rejected :
    answers (HostSide.cmd .lstep ++ HostSide.ld 0x008 ++ HostSide.st 0x00C 0 ++ HostSide.ld 0x008) State.reset
      = some [0x34, 0x34] := by decide +kernel

/-- R72: while busy a write to SCALAR is rejected with ERR_BUSY and F0 reads 0; the completion keeps ERR. -/
theorem test_busy_accesses :
    answers (HostSide.cmd (.fmov 0 .knine) ++ HostSide.st 0x020 1 ++ HostSide.ld 0x400 ++ HostSide.ld 0x008 ++ [.engine]
      ++ HostSide.ld 0x400 ++ HostSide.ld 0x008) State.reset = some [0x26, 0x9, 0x25, 0x0] := by decide +kernel

/-- A reset while a command is in flight leaves no result (R260). -/
theorem test_reset_abandons :
    answers (HostSide.cmd (.fmov 0 .knine) ++ [.reset, .engine] ++ HostSide.ld 0x400 ++ HostSide.ld 0x008) State.reset
      = some [0, 0] := by decide +kernel

/-- A word placed by `withFetchWord` runs in the very next step (log 6). -/
theorem test_fetch_word :
    step (State.reset.withFetchWord 32 0x10) = .next { (linitBody State.reset).complete with cur := 0x10 } := rfl

/-- V-X2: the clamp of Alice's and of Bob's raw bytes 0 and 31. -/
theorem test_clamp :
    (HostSide.clamp ((bytes [0x77]).set 31 0x2A))[0] = 0x70 ∧ (HostSide.clamp ((bytes [0x77]).set 31 0x2A))[31] = 0x6A ∧
    (HostSide.clamp ((bytes [0x5D]).set 31 0xEB))[0] = 0x58 ∧ (HostSide.clamp ((bytes [0x5D]).set 31 0xEB))[31] = 0x6B := by
  decide +kernel

/-! ### Witnesses: for each statement with hypotheses, states and operands that meet them -/

theorem witness_DecodeEncodeAgree : decode 0x00020401 = .ok (.fadd 4 (.reg 0) (.reg 2)) := by decide

theorem witness_IllegalExactlyWhenR98 :
    State.reset.busy = false ∧ (∃ e, decode 0x00200001 = .error e) := ⟨rfl, .reservedBits, by decide⟩

theorem witness_ResetEventFromAnyState :
    ({ running .ladder with events := [.reset, .engine] } : State).events = .reset :: [.engine] := rfl

theorem witness_StepRunsCommandInFlight :
    ((running .linit).busy = true ∧ decode (running .linit).cur = .ok .linit ∧
      ({ running .linit with events := [.engine] } : State).events = .engine :: [] ∧ (running .linit).events = []) ∧
    (State.reset.busy = false ∧ ({ State.reset with events := [.engine] } : State).events = .engine :: [] ∧
      State.reset.events = []) := by decide

theorem witness_StepAppliesHostAccess :
    ({ State.reset with events := [.hostRead 0x7FF] } : State).events = .hostRead 0x7FF :: [] ∧
    ({ State.reset with events := [.hostWrite 0x7FC 1] } : State).events = .hostWrite 0x7FC 1 :: [] := by decide

/-- The largest sum and the least difference that do not wrap. -/
theorem witness_FaddAddsLimbs :
    ∀ i : Fin 16, FitsLimb (((start (uniform (2 ^ 63 - 2)) (uniform 1)).opnd (.reg 0))[i].toInt
      + ((start (uniform (2 ^ 63 - 2)) (uniform 1)).opnd (.reg 1))[i].toInt) := by
  unfold FitsLimb; decide +kernel

theorem witness_FsubSubtractsLimbs :
    (∀ i : Fin 16, FitsLimb (((start (uniform (-2 ^ 63 + 1)) (uniform 1)).opnd (.reg 0))[i].toInt
      - ((start (uniform (-2 ^ 63 + 1)) (uniform 1)).opnd (.reg 1))[i].toInt)) ∧ (Src.ka24 = Src.ka24) := by
  unfold FitsLimb; decide +kernel

theorem witness_FmulMultipliesAndReduces :
    State.reset.opnd .kzero = limbs 0 ∧ State.reset.opnd (.reg 7) = limbs 0 := by decide +kernel

theorem witness_FcswapExchangesOrKeeps : (7 : FReg) = 7 ∧ (0 : FReg) ∉ [(1 : FReg), 2] := by decide

/-- Large limbs of either sign that CARRY takes without a wrap. -/
theorem witness_CarryKeepsResidue : NoWrap (uniform (2 ^ 62)) ∧ NoWrap (uniform (-2 ^ 62)) := by
  unfold NoWrap FitsLimb; decide +kernel

theorem witness_MulredRepresentsProduct : Within (uniform (2 ^ 26 - 1)) (2 ^ 26) ∧ Within (uniform (1 - 2 ^ 26)) (2 ^ 26) := by
  unfold Within; decide +kernel

theorem witness_SumEnvelopes :
    (∀ i : Fin 16, FitsLimb ((uniform (2 ^ 63 - 2))[i].toInt + (uniform 1)[i].toInt)) ∧
    (∀ i : Fin 16, FitsLimb ((uniform (-2 ^ 63 + 1))[i].toInt - (uniform 1)[i].toInt)) ∧
    (List.replicate 1000 (true, kone, knine)).length ≤ 1000 ∧ ([] : List (Bool × Elem × Elem)).length ≤ 1000 := by
  refine ⟨by unfold FitsLimb; decide +kernel, by unfold FitsLimb; decide +kernel, ?_, by simp⟩
  rw [List.length_replicate]

theorem witness_InverseIsFermatPower : Within (limbs 2) (2 ^ 26) ∧ Within kzero (2 ^ 26) := by
  unfold Within; decide +kernel

theorem witness_FunpackReadsIn :
    ∀ k : Fin 32, ({ State.reset with inp := counting } : State).inp[k] = BitVec.ofNat 8 k := by decide +kernel

theorem witness_FpackWritesCanonicalBytes :
    val ((start (limbs fieldPrime) kzero).getF 0) = fieldPrime ∧ val ((start (limbs (2 ^ 255)) kzero).getF 0) = 2 ^ 255 ∧
    val ((start (elem [-1]) kzero).getF 0) = -1 := by decide +kernel

theorem witness_PackMechanismAgrees : Within (uniform (2 ^ 62 - 1)) (2 ^ 62) ∧ Within (uniform (1 - 2 ^ 62)) (2 ^ 62) := by
  unfold Within; decide +kernel

/-- LE(IN) at p − 1, p, 2p − 1, 2p, and all bytes FF. -/
theorem witness_UnpackThenPackReduces :
    leNat (bytesOf (fieldPrime - 1)) < fieldPrime ∧ fieldPrime ≤ leNat (bytesOf fieldPrime) ∧
    fieldPrime ≤ leNat (bytesOf (2 * fieldPrime - 1)) ∧ fieldPrime ≤ leNat (bytesOf (2 * fieldPrime)) ∧
    (∀ k : Fin 32, (Vector.replicate 32 (0xFF : BitVec 8))[k] = 0xFF) := by decide +kernel

theorem witness_LstepRunsItsLines :
    ({ State.reset with lcount := 1 } : State).lcount ≠ 0 ∧ ({ State.reset with lcount := 255 } : State).lcount ≠ 0 := by
  decide

theorem witness_LstepWithoutIterationsRejected : State.reset.busy = false ∧ State.reset.lcount = 0 ∧
    (running .lstep).lcount = 0 := by decide

/-- Two states that differ in bit 255 of SCALAR, in F0, in IN and in LCOUNT, and agree on bits 0 to 254. -/
theorem witness_LadderDependsOnScalarBits :
    ∀ i < 255, (leNat ({ start kone knine with scalar := bytes [5], inp := counting, lcount := 3 } : State).scalar).testBit i
      = (leNat ({ State.reset with scalar := (bytes [5]).set 31 0x80 } : State).scalar).testBit i := by decide +kernel

/-- Elements at both ends of the range of MULRED outputs. -/
theorem witness_LadderStaysInEnvelope :
    MulredRange ((uniform 0).set 0 (wrap64 (-38))) ∧ MulredRange ((uniform 65535).set 0 65573) ∧ MulredRange knine := by
  unfold MulredRange; decide +kernel

theorem witness_LadderStepIsTextbookStep : MulredRange (linitBody State.reset).ladderRegs.a ∧
    MulredRange (linitBody State.reset).ladderRegs.b ∧ MulredRange (linitBody State.reset).ladderRegs.c ∧
    MulredRange (linitBody State.reset).ladderRegs.d := by
  unfold MulredRange; decide +kernel

theorem witness_ZeroScalarGivesZero :
    ((linitBody State.reset).ladderRegs.a = limbs 1 ∧ (linitBody State.reset).ladderRegs.c = limbs 0) ∧
    (∀ i < 255, (leNat (State.reset.scalar.set 31 0x80)).testBit i = false) := by decide +kernel

theorem witness_OutWrittenOnlyByPacking :
    ∃ t, exec (.fpack .knine) State.reset = .next t ∧ t.out ≠ State.reset.out := ⟨_, rfl, by decide +kernel⟩

theorem witness_LcountWrittenOnlyByLadder :
    ∃ t, exec .linit State.reset = .next t ∧ t.lcount ≠ State.reset.lcount := ⟨_, rfl, by decide +kernel⟩

/-- Steps that change SCALAR and IN: a host write while idle, and a reset. -/
theorem witness_ScalarAndInWrittenOnlyByHost :
    (∃ t, step { State.reset with events := HostSide.st 0x020 1 } = .next t ∧ t.scalar ≠ State.reset.scalar) ∧
    (∃ t, step { State.reset with events := HostSide.st 0x05C 1 } = .next t ∧ t.inp ≠ State.reset.inp) ∧
    (∃ t, step { State.reset with inp := counting, events := [.reset] } = .next t ∧ t.inp ≠ counting) :=
  ⟨⟨_, rfl, by decide +kernel⟩, ⟨_, rfl, by decide +kernel⟩, ⟨_, rfl, by decide +kernel⟩⟩

/-- The reserved ranges at both ends, and what lies just outside them. -/
theorem witness_IdleReadMap : State.reset.busy = false ∧ portOf 0x014 = .reserved ∧ portOf 0x01F = .reserved ∧
    portOf 0x080 = .reserved ∧ portOf 0x3FF = .reserved ∧ portOf 0x013 = .lcount ∧ portOf 0x020 = .scalar 0 ∧
    portOf 0x07F = .out 7 ∧ portOf 0x400 = .window 0 0 false ∧ portOf 0x7FF = .window 7 15 true := by decide +kernel

theorem witness_WordAddressing : Config.base + 0x800 < Config.base ∨ Config.base + 0x800 ≤ Config.base + 0x800 :=
  .inr (Nat.le_refl _)

/-- A busy state, and the word at each end of each range of R72. -/
theorem witness_BusyAccesses : (running .ladder).busy = true ∧ portOf 0x00B = .status ∧ portOf 0x00C = .cmd ∧
    portOf 0x00F = .cmd ∧ portOf 0x010 = .lcount ∧ portOf 0x013 = .lcount ∧ portOf 0x020 = .scalar 0 ∧
    portOf 0x05F = .inp 7 ∧ portOf 0x060 = .out 0 ∧ portOf 0x07F = .out 7 ∧ portOf 0x400 = .window 0 0 false := by
  decide +kernel

/-- Two busy blocks with different scalars and commands, and a sequence of accesses to every kind of word. -/
theorem witness_HostLearnsNothingWhileBusy :
    (∀ e ∈ HostSide.ld 0x060 ++ HostSide.st 0x020 1 ++ HostSide.st 0x004 1 ++ HostSide.ld 0x008, isHostAccess e) ∧
    (running .ladder).busy = true ∧ (running .linit).busy = true ∧
    (running .ladder).irqEn = ({ running .linit with scalar := counting } : State).irqEn ∧
    (running .ladder).done = (running .linit).done ∧ (running .ladder).err = (running .linit).err ∧
    (running .ladder).errcode = (running .linit).errcode ∧ (running .ladder).reads = (running .linit).reads := by
  refine ⟨?_, by decide⟩
  simp [HostSide.ld, HostSide.st, isHostAccess]

/-- An idle state, and accesses outside the word written. -/
theorem witness_WindowWriteSetsHalf : State.reset.busy = false ∧
    (0x000 : Offset).toNat / 4 ≠ (0x400 + 0x80 * (7 : FReg).val + 8 * (15 : Fin 16).val + 4 * (1 : Fin 2).val) / 4 := by decide

theorem witness_ByteRegisterWrite : State.reset.busy = false := rfl

theorem witness_ReadOnlyAndReserved : portOf 0x003 = .id ∧ portOf 0x010 = .lcount ∧ portOf 0x01F = .reserved ∧
    portOf 0x060 = .out 0 ∧ portOf 0x3FF = .reserved ∧ portOf 0x00C = .cmd ∧ portOf 0x00F = .cmd := by decide +kernel

theorem witness_AccessesIdempotent : State.reset.busy = false ∧ portOf 0x004 ≠ .cmd ∧ portOf 0x004 ≠ .status ∧
    portOf 0x008 ≠ .cmd ∧ portOf 0x7FC ≠ .cmd := by decide +kernel

theorem witness_StatusWriteOneToClear : (0x6 : Word).getLsbD 1 = true ∧ (0x6 : Word).getLsbD 2 = true := by decide

/-- One state and word for each of the four outcomes of R224. -/
theorem witness_CommandWriteHandling :
    (running .ladder).busy = true ∧
    (State.reset.busy = false ∧ ∃ e, decode 0 = .error e) ∧
    (State.reset.busy = false ∧ (∃ i, decode 0x00000011 = .ok i) ∧ (0x00000011 : Word).extractLsb' 0 8 = 0x11 ∧
      State.reset.lcount = 0) ∧
    (State.reset.busy = false ∧ (∃ i, decode 0x00000010 = .ok i) ∧
      ¬ ((0x00000010 : Word).extractLsb' 0 8 = 0x11 ∧ State.reset.lcount = 0)) :=
  ⟨by decide, ⟨rfl, .unassignedOpcode, by decide⟩, ⟨rfl, ⟨.lstep, by decide⟩, by decide, rfl⟩,
    ⟨rfl, ⟨.linit, by decide⟩, by decide⟩⟩

/-- The invariant of a state with a command in flight. -/
theorem running_inv : BlockInv (running .ladder) where
  inFlight := fun _ => ⟨.ladder, by decide +kernel, by decide +kernel⟩
  busyNotDone := fun _ => rfl
  noError := fun _ => rfl
  errorCode := by decide +kernel

theorem witness_AcceptedCommandCompletes : BlockInv (running .ladder) ∧ (running .ladder).busy = true := ⟨running_inv, rfl⟩

theorem witness_StepKeepsInvariant :
    ∃ t, BlockInv { running .ladder with events := HostSide.st 0x00C 0 } ∧
      step { running .ladder with events := HostSide.st 0x00C 0 } = .next t :=
  ⟨_, ⟨running_inv.inFlight, running_inv.busyNotDone, running_inv.noError, running_inv.errorCode⟩, rfl⟩

/-- One for each clause; the state of the second meets the invariant too. -/
theorem witness_CommandInFlightCompletes :
    (({ running .linit with events := HostSide.ld 0x008 } : State).busy = true ∧
      .reset ∉ ({ running .linit with events := HostSide.ld 0x008 } : State).events) ∧
    BlockInv (running .ladder) ∧ (running .ladder).busy = true ∧ .reset ∉ (running .ladder).events :=
  ⟨by decide, running_inv, rfl, by decide⟩

theorem witness_ResultFixedAtAcceptance : State.reset.busy = false ∧ ¬ (Instr.lstep = .lstep ∧
    ({ State.reset with lcount := 1 } : State).lcount = 0) ∧
    ∀ e ∈ HostSide.st 0x020 1 ++ HostSide.ld 0x400, isHostAccess e := by
  refine ⟨rfl, by decide, ?_⟩
  simp [HostSide.ld, HostSide.st, isHostAccess]

end Sys2Proof.Tests
end

section
/-! PROOFS of the family 10_state.md: who writes which register, CTRL, STATUS and ID, and the invariant of the block. -/

/-! ### The decoder: which words are LSTEP (30_encoding.md R97) -/

namespace Sys2Proof

/-- A legal word has the opcode its command is encoded with. -/
theorem decodeCommand_ok_op {c : Command} {i : Instr} (h : decodeCommand c = .ok i) : c.op = i.command.op := by
  unfold decodeCommand at h
  by_cases hr : c.rsv ≠ 0
  · rw [if_pos hr] at h; cases h
  rw [if_neg hr] at h
  split at h
  case h_13 => cases h
  all_goals
    simp only [except_bind_eq_ok, pure, Except.pure, Except.ok.injEq] at h
    repeat obtain ⟨_, -, h⟩ := h
    assumption

theorem opcode_of_decode_lstep {w : Word} (h : decode w = .ok .lstep) : w.extractLsb' 0 8 = 0x11 :=
  decodeCommand_ok_op h

end Sys2Proof

/-! ### What a completed command can do -/

namespace Sys2Proof.Machine

open Sys2Proof.Claims

/-- What running command `i` in state `s` can leave: which of F, OUT and LCOUNT it writes (R22, R27, R28), or the
rejection of an LSTEP that no iteration is left for (log 4). The values written to F are those of the equations
`exec_fadd` to `exec_funpack`; here they are left open, as a frame does not depend on them. -/
inductive ExecEffect (s : State) : Instr → State → Prop where
  | field (i : Instr) (f : Vector Elem 8) : ExecEffect s i ({ s with f := f } : State).complete
  | fpack (s1 : Src) : ExecEffect s (.fpack s1) ({ s with out := pack (s.opnd s1) } : State).complete
  | linit : ExecEffect s .linit (linitBody s).complete
  | lstep (h : s.lcount ≠ 0) : ExecEffect s .lstep (lstepBody s).complete
  | lstepRejected (h : s.lcount = 0) : ExecEffect s .lstep (s.rejectInFlight .lstate)
  | lfinish : ExecEffect s .lfinish (lfinishBody s).complete
  | ladder : ExecEffect s .ladder (lfinishBody (lstepLoop 255 (linitBody s))).complete

/-- Every command goes on, with one of the effects above. -/
theorem exec_effect (i : Instr) (s : State) : ∃ t, exec i s = .next t ∧ ExecEffect s i t := by
  cases i with
  | fadd d s1 s2 => exact ⟨_, exec_fadd d s1 s2 s, .field _ _⟩
  | fsub d s1 s2 => exact ⟨_, exec_fsub d s1 s2 s, .field _ _⟩
  | fmul d s1 s2 => exact ⟨_, exec_fmul d s1 s2 s, .field _ _⟩
  | fcarry d => exact ⟨_, exec_fcarry d s, .field _ _⟩
  | fcswap a b flag => exact ⟨_, exec_fcswap a b flag s, .field _ _⟩
  | finv d s1 => exact ⟨_, exec_finv d s1 s, .field _ _⟩
  | funpack d => exact ⟨_, exec_funpack d s, .field _ _⟩
  | fpack s1 => exact ⟨_, exec_fpack s1 s, .fpack s1⟩
  | linit => exact ⟨_, exec_linit s, .linit⟩
  | lstep =>
    by_cases h : s.lcount = 0
    · exact ⟨_, exec_lstep_zero s h, .lstepRejected h⟩
    · exact ⟨_, exec_lstep s h, .lstep h⟩
  | lfinish => exact ⟨_, exec_lfinish s, .lfinish⟩
  | ladder => exact ⟨_, exec_ladder s, .ladder⟩

theorem exec_next_effect {i : Instr} {s t : State} (h : exec i s = .next t) : ExecEffect s i t := by
  obtain ⟨u, hu, effect⟩ := exec_effect i s
  cases hu.symm.trans h
  exact effect

/-- Every command but the rejected LSTEP completes (R223, R230). -/
theorem ExecEffect.completed {s t : State} {i : Instr} (h : ExecEffect s i t) (hi : ¬ (i = .lstep ∧ s.lcount = 0)) :
    Completed s t := by
  cases h with
  | lstepRejected h => exact absurd ⟨rfl, h⟩ hi
  | _ => constructor <;> simp

theorem ExecEffect.scalar_inp {s t : State} {i : Instr} (h : ExecEffect s i t) :
    t.scalar = s.scalar ∧ t.inp = s.inp := by cases h <;> simp

theorem ExecEffect.out_eq_or {s t : State} {i : Instr} (h : ExecEffect s i t) :
    t.out = s.out ∨ (∃ s1, i = .fpack s1) ∨ i = .lfinish ∨ i = .ladder := by
  cases h with
  | fpack s1 => exact .inr (.inl ⟨s1, rfl⟩)
  | lfinish => exact .inr (.inr (.inl rfl))
  | ladder => exact .inr (.inr (.inr rfl))
  | _ => exact .inl (by simp)

theorem ExecEffect.lcount_eq_or {s t : State} {i : Instr} (h : ExecEffect s i t) :
    t.lcount = s.lcount ∨ (i = .linit ∧ t.lcount = 255) ∨ (i = .lstep ∧ t.lcount = s.lcount - 1) ∨
      (i = .ladder ∧ t.lcount = 0) := by
  cases h with
  | linit => exact .inr (.inl ⟨rfl, by simp⟩)
  | lstep => exact .inr (.inr (.inl ⟨rfl, by simp⟩))
  | ladder => exact .inr (.inr (.inr ⟨rfl, by simp [lstepLoop_lcount]⟩))
  | _ => exact .inl (by simp)

/-- The engine's turn never writes SCALAR or IN (R25, R26). -/
theorem engineTurn_scalar_inp {s t : State} (h : engineTurn s = .next t) : t.scalar = s.scalar ∧ t.inp = s.inp := by
  obtain ⟨-, ht⟩ | ⟨-, i, -, ht⟩ | ⟨-, -, ht⟩ := engineTurn_cases s
  · cases ht.symm.trans h; exact ⟨rfl, rfl⟩
  · exact (exec_next_effect (ht.symm.trans h)).scalar_inp
  · cases ht.symm.trans h; simp

/-! ### What a host write can do to the data registers -/

/-- The registers that hold data agree: F0 to F7, SCALAR, IN, OUT and LCOUNT (R20). -/
structure SameData (s t : State) : Prop where
  f      : t.f = s.f
  scalar : t.scalar = s.scalar
  inp    : t.inp = s.inp
  out    : t.out = s.out
  lcount : t.lcount = s.lcount

theorem SameData.refl (s : State) : SameData s s := ⟨rfl, rfl, rfl, rfl, rfl⟩

theorem State.raise_sameData (s : State) (c : ErrCode) : SameData s (s.raise c) := by constructor <;> simp

theorem State.accept_sameData (s : State) (w : Word) : SameData s (s.accept w) := by constructor <;> simp

theorem State.writeCtrl_sameData (s : State) (v : Word) : SameData s (s.writeCtrl v) := ⟨rfl, rfl, rfl, rfl, rfl⟩

theorem State.writeStatus_sameData (s : State) (v : Word) : SameData s (s.writeStatus v) := by
  constructor <;> simp [State.writeStatus]

theorem State.writeCmd_sameData (s : State) (w : Word) : SameData s (s.writeCmd w) := by
  obtain ⟨-, h⟩ | ⟨-, -, h⟩ | ⟨-, -, -, -, h⟩ | ⟨-, -, -, h⟩ := writeCmd_cases s w <;> rw [h]
  · exact s.raise_sameData _
  · exact s.raise_sameData _
  · exact s.raise_sameData _
  · exact s.accept_sameData w

/-- A host write leaves the data registers as they were, or writes one word of SCALAR, of IN or of the window while
BUSY = 0 (R61, R66, R72). -/
theorem busWrite_data_cases (s : State) (off : Offset) (v : Word) :
    SameData s (s.busWrite off v) ∨
    (s.busy = false ∧ ∃ j, portOf off = .scalar j ∧ s.busWrite off v = { s with scalar := setWord s.scalar j v }) ∨
    (s.busy = false ∧ ∃ j, portOf off = .inp j ∧ s.busWrite off v = { s with inp := setWord s.inp j v }) ∨
    (s.busy = false ∧ ∃ r x, s.busWrite off v = s.setF r x) := by
  obtain h | h | h | h | ⟨-, h⟩ | hscalar | hinp | ⟨hb, r, i, half, -, h⟩ := busWrite_cases s off v
  · exact .inl (by rw [h]; exact .refl s)
  · exact .inl (by rw [h]; exact s.writeCtrl_sameData v)
  · exact .inl (by rw [h]; exact s.writeStatus_sameData v)
  · exact .inl (by rw [h]; exact s.writeCmd_sameData v)
  · exact .inl (by rw [h]; exact s.raise_sameData _)
  · exact .inr (.inl hscalar)
  · exact .inr (.inr (.inl hinp))
  · exact .inr (.inr (.inr ⟨hb, r, _, h⟩))

theorem busWrite_out_lcount (s : State) (off : Offset) (v : Word) :
    (s.busWrite off v).out = s.out ∧ (s.busWrite off v).lcount = s.lcount := by
  obtain h | ⟨-, j, -, h⟩ | ⟨-, j, -, h⟩ | ⟨-, r, x, h⟩ := busWrite_data_cases s off v
  · exact ⟨h.out, h.lcount⟩
  · rw [h]; exact ⟨rfl, rfl⟩
  · rw [h]; exact ⟨rfl, rfl⟩
  · rw [h]; simp

theorem busWrite_scalar_eq_or (s : State) (off : Offset) (v : Word) :
    (s.busWrite off v).scalar = s.scalar ∨ (s.busy = false ∧ ∃ j, portOf off = .scalar j) := by
  obtain h | ⟨hb, j, hp, -⟩ | ⟨-, j, -, h⟩ | ⟨-, r, x, h⟩ := busWrite_data_cases s off v
  · exact .inl h.scalar
  · exact .inr ⟨hb, j, hp⟩
  · exact .inl (by rw [h])
  · exact .inl (by rw [h, State.setF_scalar])

theorem busWrite_inp_eq_or (s : State) (off : Offset) (v : Word) :
    (s.busWrite off v).inp = s.inp ∨ (s.busy = false ∧ ∃ j, portOf off = .inp j) := by
  obtain h | ⟨-, j, -, h⟩ | ⟨hb, j, hp, -⟩ | ⟨-, r, x, h⟩ := busWrite_data_cases s off v
  · exact .inl h.inp
  · exact .inl (by rw [h])
  · exact .inr ⟨hb, j, hp⟩
  · exact .inl (by rw [h, State.setF_inp])

/-- A step keeps SCALAR and IN, or it is a reset or a host write. -/
theorem step_scalar_inp_cases {s t : State} (h : step s = .next t) :
    (t.scalar = s.scalar ∧ t.inp = s.inp) ∨ s.events.head? = some .reset ∨
    ∃ off v es, s.events = .hostWrite off v :: es ∧ t = ({ s with events := es } : State).busWrite off v := by
  obtain ⟨-, ht⟩ | ⟨off, es, -, ht⟩ | ⟨off, v, es, he, ht⟩ | ⟨es, -, ht⟩ | ⟨es, he, -⟩ := step_cases s
  · exact .inl (engineTurn_scalar_inp (ht.symm.trans h))
  · cases ht.symm.trans h; exact .inl ⟨rfl, rfl⟩
  · cases ht.symm.trans h; exact .inr (.inr ⟨off, v, es, he, rfl⟩)
  · exact .inl (engineTurn_scalar_inp (s := { s with events := es }) (ht.symm.trans h))
  · exact .inr (.inl (by rw [he]; rfl))

/-! ### CTRL, STATUS and ID on the bus (R31 to R37) -/

theorem portOf_at_0x000 : portOf 0x000 = .id := by decide
theorem portOf_at_0x004 : portOf 0x004 = .ctrl := by decide
theorem portOf_at_0x008 : portOf 0x008 = .status := by decide

/-- A word that is not hidden while BUSY = 1 reads at all times as an idle block answers it (R72). -/
theorem busRead_of_visible (s : State) {off : Offset} {p : Port} (hp : portOf off = p)
    (hv : p.hiddenWhileBusy = false) : s.busRead off = s.idleRead p := by
  rw [State.busRead, hp, hv, Bool.and_false, if_neg Bool.false_ne_true]

theorem busRead_id (s : State) : s.busRead 0x000 = idValue := busRead_of_visible s portOf_at_0x000 rfl
theorem busRead_ctrl (s : State) : s.busRead 0x004 = s.ctrlWord := busRead_of_visible s portOf_at_0x004 rfl
theorem busRead_status (s : State) : s.busRead 0x008 = s.statusWord := busRead_of_visible s portOf_at_0x008 rfl

theorem busWrite_of_port (s : State) {off : Offset} {p : Port} (hp : portOf off = p) (v : Word) :
    s.busWrite off v = s.writePort v p := by rw [State.busWrite, hp]

theorem busWrite_id (s : State) (v : Word) : s.busWrite 0x000 v = s := busWrite_of_port s portOf_at_0x000 v
theorem busWrite_ctrl (s : State) (v : Word) : s.busWrite 0x004 v = s.writeCtrl v :=
  busWrite_of_port s portOf_at_0x004 v
theorem busWrite_status (s : State) (v : Word) : s.busWrite 0x008 v = s.writeStatus v :=
  busWrite_of_port s portOf_at_0x008 v

/-- The number of two bit strings side by side. -/
theorem toNat_append_eq_add {m n : Nat} (x : BitVec m) (y : BitVec n) :
    (x ++ y).toNat = 2 ^ n * x.toNat + y.toNat := by
  rw [BitVec.toNat_append, ← Nat.shiftLeft_add_eq_or_of_lt y.isLt, Nat.shiftLeft_eq, Nat.mul_comm]

theorem State.ctrlWord_toNat (s : State) : s.ctrlWord.toNat = s.irqEn.toNat := by
  simp only [State.ctrlWord, toNat_append_eq_add, BitVec.toNat_ofBool, BitVec.ofNat_eq_ofNat, BitVec.toNat_ofNat]
  omega

theorem State.statusWord_toNat (s : State) :
    s.statusWord.toNat = s.busy.toNat + 2 * s.done.toNat + 4 * s.err.toNat + 16 * s.errcode.toNat
      + 256 * s.irq.toNat := by
  simp only [State.statusWord, toNat_append_eq_add, BitVec.toNat_ofBool, BitVec.ofNat_eq_ofNat,
    BitVec.toNat_ofNat]
  omega

/-! ### The invariant (R32 to R35, R222, R224) -/

theorem ErrCode.code_eq_one_two_or_three (c : ErrCode) : c.code = 1 ∨ c.code = 2 ∨ c.code = 3 := by
  cases c with
  | illegal => exact .inl rfl
  | busy => exact .inr (.inl rfl)
  | lstate => exact .inr (.inr rfl)

/-- The invariant is about the command in flight and the error report alone. -/
theorem BlockInv.of_same_control {s t : State} (h : BlockInv s) (hbusy : t.busy = s.busy) (hdone : t.done = s.done)
    (herr : t.err = s.err) (hcode : t.errcode = s.errcode) (hcur : t.cur = s.cur) (hlcount : t.lcount = s.lcount) :
    BlockInv t where
  inFlight := by rw [hbusy, hcur, hlcount]; exact h.inFlight
  busyNotDone := by rw [hbusy, hdone]; exact h.busyNotDone
  noError := by rw [herr, hcode]; exact h.noError
  errorCode := by rw [herr, hcode]; exact h.errorCode

theorem BlockInv.of_idle {s t : State} (h : BlockInv s) (hbusy : t.busy = false) (herr : t.err = s.err)
    (hcode : t.errcode = s.errcode) : BlockInv t where
  inFlight := by simp [hbusy]
  busyNotDone := by simp [hbusy]
  noError := by rw [herr, hcode]; exact h.noError
  errorCode := by rw [herr, hcode]; exact h.errorCode

theorem BlockInv.raise {s : State} (h : BlockInv s) (c : ErrCode) : BlockInv (s.raise c) where
  inFlight := h.inFlight
  busyNotDone := h.busyNotDone
  noError := by simp
  errorCode := fun _ => by
    rw [State.raise_errcode]
    split
    · exact h.errorCode ‹_›
    · exact c.code_eq_one_two_or_three

theorem BlockInv.acknowledge {s : State} (h : BlockInv s) (clearDone clearErr : Bool) :
    BlockInv (s.acknowledge clearDone clearErr) where
  inFlight := h.inFlight
  busyNotDone := fun hb => by rw [State.acknowledge_done, h.busyNotDone hb, Bool.false_and]
  noError := by cases clearErr with
    | true => simp
    | false => simpa using h.noError
  errorCode := by cases clearErr with
    | true => simp
    | false => simpa using h.errorCode

theorem BlockInv.accept {s : State} (h : BlockInv s) {w : Word} {i : Instr} (hd : decode w = .ok i)
    (hw : ¬ (w.extractLsb' 0 8 = 0x11 ∧ s.lcount = 0)) : BlockInv (s.accept w) where
  inFlight := fun _ => ⟨i, hd, fun ⟨hi, hl⟩ => hw ⟨opcode_of_decode_lstep (hi ▸ hd), hl⟩⟩
  busyNotDone := fun _ => rfl
  noError := h.noError
  errorCode := h.errorCode

theorem BlockInv.writeCmd {s : State} (h : BlockInv s) (w : Word) : BlockInv (s.writeCmd w) := by
  obtain ⟨-, hw⟩ | ⟨-, -, hw⟩ | ⟨-, -, -, -, hw⟩ | ⟨-, ⟨i, hd⟩, hop, hw⟩ := writeCmd_cases s w <;> rw [hw]
  · exact h.raise _
  · exact h.raise _
  · exact h.raise _
  · exact h.accept hd hop

theorem BlockInv.busWrite {s : State} (h : BlockInv s) (off : Offset) (v : Word) : BlockInv (s.busWrite off v) := by
  obtain hw | hw | hw | hw | ⟨-, hw⟩ | ⟨-, j, -, hw⟩ | ⟨-, j, -, hw⟩ | ⟨-, r, i, half, -, hw⟩ :=
    busWrite_cases s off v <;> rw [hw]
  · exact h
  · exact h.of_same_control rfl rfl rfl rfl rfl rfl
  · exact h.acknowledge _ _
  · exact h.writeCmd v
  · exact h.raise _
  · exact h.of_same_control rfl rfl rfl rfl rfl rfl
  · exact h.of_same_control rfl rfl rfl rfl rfl rfl
  · exact h.of_same_control rfl rfl rfl rfl rfl rfl

/-- With the invariant, the command in flight completes (R223, R230). -/
theorem BlockInv.engineTurn_completed {s : State} (h : BlockInv s) (hb : s.busy = true) :
    ∃ t, engineTurn s = .next t ∧ Completed s t := by
  obtain ⟨i, hd, hi⟩ := h.inFlight hb
  obtain ⟨t, ht, effect⟩ := exec_effect i s
  exact ⟨t, (engineTurn_ok s hb hd).trans ht, effect.completed hi⟩

theorem BlockInv.engineTurn {s t : State} (h : BlockInv s) (ht : engineTurn s = .next t) : BlockInv t := by
  cases hb : s.busy with
  | false => cases (engineTurn_idle s hb).symm.trans ht; exact h
  | true =>
    obtain ⟨u, hu, done⟩ := h.engineTurn_completed hb
    cases hu.symm.trans ht
    exact h.of_idle done.busy done.err done.errcode

theorem BlockInv.reset : BlockInv State.reset where
  inFlight := nofun
  busyNotDone := nofun
  noError := fun _ => rfl
  errorCode := nofun

theorem BlockInv.applyReset (s : State) : BlockInv s.applyReset := BlockInv.reset.of_same_control rfl rfl rfl rfl rfl rfl

theorem BlockInv.withEvents {s : State} (h : BlockInv s) (es : List Event) :
    BlockInv { s with events := es } := h.of_same_control rfl rfl rfl rfl rfl rfl

theorem BlockInv.step {s t : State} (h : BlockInv s) (ht : step s = .next t) : BlockInv t := by
  obtain ⟨-, hs⟩ | ⟨off, es, -, hs⟩ | ⟨off, v, es, -, hs⟩ | ⟨es, -, hs⟩ | ⟨es, -, hs⟩ := step_cases s
  · exact h.engineTurn (hs.symm.trans ht)
  · cases hs.symm.trans ht; exact h.of_same_control rfl rfl rfl rfl rfl rfl
  · cases hs.symm.trans ht; exact (h.withEvents es).busWrite off v
  · exact (h.withEvents es).engineTurn (hs.symm.trans ht)
  · cases hs.symm.trans ht; exact .applyReset _

/-! ### The obligations of 10_state.md -/

/-- Settles O54, event by event. -/
theorem stepKeepsInvariant : Obligations.StepKeepsInvariant := fun _ _ h ht => h.step ht

/-- Settles O37, from what a command and what a host write can leave in OUT. -/
theorem outWrittenOnlyByPacking : Obligations.OutWrittenOnlyByPacking :=
  ⟨fun _ _ _ h hne => (exec_next_effect h).out_eq_or.resolve_left hne,
    fun s off v => (busWrite_out_lcount s off v).1⟩

/-- Settles O38, from what a command and what a host write can leave in LCOUNT. -/
theorem lcountWrittenOnlyByLadder : Obligations.LcountWrittenOnlyByLadder :=
  ⟨fun _ _ _ h hne => (exec_next_effect h).lcount_eq_or.resolve_left hne,
    fun s off v => (busWrite_out_lcount s off v).2⟩

/-- Settles O39: only a reset or a host write can change SCALAR or IN, and such a write names the register. -/
theorem scalarAndInWrittenOnlyByHost : Obligations.ScalarAndInWrittenOnlyByHost := by
  intro s t h
  obtain ⟨hscalar, hinp⟩ | hreset | ⟨off, v, es, he, rfl⟩ := step_scalar_inp_cases h
  · exact ⟨fun hne => absurd hscalar hne, fun hne => absurd hinp hne⟩
  · exact ⟨fun _ => .inl hreset, fun _ => .inl hreset⟩
  · have head : s.events.head? = some (.hostWrite off v) := by rw [he]; rfl
    refine ⟨fun hne => .inr ?_, fun hne => .inr ?_⟩
    · obtain ⟨hb, j, hp⟩ := (busWrite_scalar_eq_or _ off v).resolve_left hne
      exact ⟨hb, off, v, j, head, hp⟩
    · obtain ⟨hb, j, hp⟩ := (busWrite_inp_eq_or _ off v).resolve_left hne
      exact ⟨hb, off, v, j, head, hp⟩

/-- Settles O6, register by register. -/
theorem resetValues : Obligations.ResetValues := by
  refine ⟨fun r i => ?_, fun k => ?_, rfl, rfl, rfl, rfl, rfl, rfl, rfl, rfl, ?_, busRead_id _⟩
  · simp [State.getF, State.reset]
  · simp [State.reset]
  · rw [busRead_status]; decide

/-- Settles O47, as ID is neither hidden while BUSY = 1 nor writable. -/
theorem idConstant : Obligations.IdConstant := fun s v => ⟨busRead_id s, busWrite_id s v⟩

/-- Settles O49, from the port at 0x004 and the number CTRL reads as. -/
theorem ctrlRegister : Obligations.CtrlRegister := fun s v =>
  ⟨busWrite_ctrl s v, by rw [busRead_ctrl, State.ctrlWord_toNat]⟩

/-- Settles O50, from the port at 0x008 and the number STATUS reads as. -/
theorem statusRegister : Obligations.StatusRegister := fun s =>
  ⟨by rw [busRead_status, State.statusWord_toNat], by simp [State.irq]⟩

/-- Settles O51: the write is the acknowledgement. -/
theorem statusWriteOneToClear : Obligations.StatusWriteOneToClear := by
  refine fun s v => ⟨?_, fun h1 h2 => ?_⟩
  · rw [busWrite_status, State.writeStatus]
    cases v.getLsbD 1 <;> cases v.getLsbD 2 <;> simp [State.acknowledge]
  · rw [busWrite_status, State.writeStatus]
    simp [State.irq, h1, h2]

/-- Settles O55: the reset state is idle, with no error. -/
theorem resetMeetsInvariant : Obligations.ResetMeetsInvariant := .reset

end Sys2Proof.Machine
end

section
/-! PROOFS of the family 20_memory.md: which word of the map an offset names, what a host access reads and writes, idle
and busy, and a run of host accesses. -/

/-! ### The register map (20_memory.md R61, R63, R68) -/

namespace Sys2Proof.Machine

open Sys2Proof.Claims

/-- The word numbers of a port: a quarter of its offsets in the map (R61, R63). -/
def Port.HasWord : Port → Nat → Prop
  | .id, n => n = 0
  | .ctrl, n => n = 1
  | .status, n => n = 2
  | .cmd, n => n = 3
  | .lcount, n => n = 4
  | .reserved, n => 5 ≤ n ∧ n < 8 ∨ 32 ≤ n ∧ n < 256
  | .scalar j, n => n = 8 + j.val
  | .inp j, n => n = 16 + j.val
  | .out j, n => n = 24 + j.val
  | .window r i h, n => n = 256 + 32 * r.val + 2 * i.val + h.toNat

theorem toNat_mod_two_beq_one (n : Nat) : (n % 2 == 1).toNat = n % 2 := by
  obtain h | h := Nat.mod_two_eq_zero_or_one n <;> simp [h]

theorem portAt_hasWord {n : Nat} (hn : n < 512) : (portAt n).HasWord n := by
  obtain ⟨h, hp⟩ | ⟨h, hp⟩ | ⟨h, hp⟩ | ⟨h, hp⟩ | ⟨h, hp⟩ | ⟨h, hp⟩ | ⟨h, h', hp⟩ | ⟨h, h', hp⟩ | ⟨h, h', hp⟩ | ⟨h, hp⟩ :=
    portAt_cases n <;> rw [hp] <;> simp only [Port.HasWord, Fin.ofNat, toNat_mod_two_beq_one] <;> omega

theorem portAt_reserved {n : Nat} (hn : Port.reserved.HasWord n) : portAt n = .reserved := by
  unfold portAt
  obtain ⟨h, h'⟩ | ⟨h, h'⟩ := hn
  · iterate 5 rw [if_neg (by omega)]
    rw [if_pos h']
  · iterate 9 rw [if_neg (by omega)]
    rw [if_pos h']

theorem portAt_scalar (j : Fin 8) : portAt (8 + j.val) = .scalar j := by revert j; decide
theorem portAt_inp (j : Fin 8) : portAt (16 + j.val) = .inp j := by revert j; decide
theorem portAt_out (j : Fin 8) : portAt (24 + j.val) = .out j := by revert j; decide

theorem portAt_window (r : FReg) (i : Fin 16) (h : Bool) :
    portAt (256 + 32 * r.val + 2 * i.val + h.toNat) = .window r i h := by
  have bit : ((2 * (16 * r.val + i.val) + h.toNat) % 2 == 1) = h := by cases h <;> simp
  have := h.toNat_le
  unfold portAt
  iterate 10 rw [if_neg (by omega)]
  rw [Port.window.injEq]
  refine ⟨Fin.ext ?_, Fin.ext ?_, ?_⟩
  · simp only [Fin.ofNat]; omega
  · simp only [Fin.ofNat]; omega
  · rw [show 256 + 32 * r.val + 2 * i.val + h.toNat - 256 = 2 * (16 * r.val + i.val) + h.toNat by omega, bit]

/-- The map read backwards: which words a port is. -/
theorem portOf_eq_iff (off : Offset) (p : Port) : portOf off = p ↔ p.HasWord (off.toNat / 4) := by
  refine ⟨fun h => h ▸ portAt_hasWord (wordIndex_lt off), fun h => ?_⟩
  unfold portOf wordIndex
  cases p with
  | reserved => exact portAt_reserved h
  | scalar j => rw [h, portAt_scalar]
  | inp j => rw [h, portAt_inp]
  | out j => rw [h, portAt_out]
  | window r i b => rw [h, portAt_window]
  | _ => rw [h]; rfl

theorem portOf_scalar (j : Fin 8) : portOf (BitVec.ofNat 11 (0x020 + 4 * j)) = .scalar j := by
  rw [portOf_eq_iff, Port.HasWord, BitVec.toNat_ofNat]; omega

theorem portOf_inp (j : Fin 8) : portOf (BitVec.ofNat 11 (0x040 + 4 * j)) = .inp j := by
  rw [portOf_eq_iff, Port.HasWord, BitVec.toNat_ofNat]; omega

theorem portOf_out (j : Fin 8) : portOf (BitVec.ofNat 11 (0x060 + 4 * j)) = .out j := by
  rw [portOf_eq_iff, Port.HasWord, BitVec.toNat_ofNat]; omega

theorem portOf_window (r : FReg) (i : Fin 16) (h : Bool) :
    portOf (BitVec.ofNat 11 (0x400 + 0x80 * r + 8 * i + 4 * h.toNat)) = .window r i h := by
  have := h.toNat_le
  rw [portOf_eq_iff, Port.HasWord, BitVec.toNat_ofNat]; omega

theorem portOf_reserved {off : Offset}
    (h : (0x014 ≤ off.toNat ∧ off.toNat < 0x020) ∨ (0x080 ≤ off.toNat ∧ off.toNat < 0x400)) :
    portOf off = .reserved := by
  rw [portOf_eq_iff, Port.HasWord]; omega

theorem portOf_cmd {off : Offset} (h : 0x00C ≤ off.toNat ∧ off.toNat < 0x010) : portOf off = .cmd := by
  rw [portOf_eq_iff, Port.HasWord]; omega

theorem portOf_at_0x010 : portOf 0x010 = .lcount := by decide

theorem wordIndex_clear_low (off : Offset) : wordIndex (off &&& 0x7FC) = wordIndex off :=
  calc (off.toNat &&& 2044) / 2 ^ 2
    _ = off.toNat / 2 ^ 2 &&& 2 ^ 9 - 1 := Nat.and_div_two_pow
    _ = off.toNat / 4 % 2 ^ 9 := Nat.and_two_pow_sub_one_eq_mod _ _
    _ = off.toNat / 4 := Nat.mod_eq_of_lt (wordIndex_lt off)

/-- Bits 1:0 of an offset do not bear on the word it names (R68). -/
theorem portOf_clear_low (off : Offset) : portOf (off &&& 0x7FC) = portOf off :=
  congrArg portAt (wordIndex_clear_low off)

theorem offsetOf_base_add (off : Offset) : offsetOf (Config.base + off.toNat) = some off := by
  rw [offsetOf, if_pos (by omega), Nat.add_sub_cancel_left, BitVec.ofNat_toNat, BitVec.setWidth_eq]

/-! ### Words of byte registers and halves of limbs (R62 to R64) -/

theorem getWord_byte (b : ByteReg) (j : Fin 8) (m : Fin 4) :
    (getWord b j).extractLsb' (8 * m) 8 = b[4 * j.val + m.val] := by
  unfold getWord
  refine BitVec.eq_of_getLsbD_eq fun i hi => ?_
  simp only [BitVec.getLsbD_extractLsb', BitVec.getLsbD_append, hi, decide_true, Bool.true_and]
  have below : 16 + i - 8 = 8 + i ∧ 24 + i - 8 = 16 + i := by omega
  have beyond : ¬ 16 + i < 8 ∧ ¬ 24 + i < 8 := by omega
  fin_cases m <;> simp [hi, below, beyond]

/-- A bus word is its four bytes. -/
theorem word_ext_bytes {v w : Word} (h : ∀ m : Fin 4, v.extractLsb' (8 * m) 8 = w.extractLsb' (8 * m) 8) : v = w := by
  refine BitVec.eq_of_getLsbD_eq fun i hi => ?_
  have byte := congrArg (·.getLsbD (i % 8)) (h ⟨i / 8, by omega⟩)
  simpa [Nat.mod_lt, Nat.div_add_mod] using byte

theorem getWord_setWord (b : ByteReg) (j : Fin 8) (v : Word) : getWord (setWord b j v) j = v := by
  refine word_ext_bytes fun m => ?_
  rw [getWord_byte, setWord_getElem, if_pos (by omega), show (4 * j.val + m.val) % 4 = m.val by omega]

theorem setWord_setWord (b : ByteReg) (j : Fin 8) (v : Word) : setWord (setWord b j v) j v = setWord b j v := by
  refine Vector.ext fun k hk => ?_
  simp only [setWord_getElem]
  split_ifs <;> rfl

theorem getHalf_toNat (x : Limb) (h : Bool) : (getHalf x h).toNat = x.toNat / 2 ^ (32 * h.toNat) % 2 ^ 32 := by
  cases h <;> simp [getHalf, Nat.shiftRight_eq_div_pow]

theorem setHalf_toNat (x : Limb) (h : Bool) (v : Word) :
    (setHalf x h v).toNat =
      if h then v.toNat * 2 ^ 32 + x.toNat % 2 ^ 32 else x.toNat / 2 ^ 32 * 2 ^ 32 + v.toNat := by
  have := x.isLt
  cases h
  · refine (toNat_append_eq_add (x.extractLsb' 32 32) v).trans ?_
    rw [BitVec.extractLsb'_toNat, Nat.shiftRight_eq_div_pow, if_neg Bool.false_ne_true]
    omega
  · refine (toNat_append_eq_add v (x.extractLsb' 0 32)).trans ?_
    rw [BitVec.extractLsb'_toNat, Nat.shiftRight_zero, if_pos rfl]
    omega

theorem limb_ext_halves {x y : Limb} (h : ∀ b, getHalf x b = getHalf y b) : x = y := by
  have low := congrArg BitVec.toNat (h false)
  have high := congrArg BitVec.toNat (h true)
  simp only [getHalf_toNat, Bool.toNat_false, Bool.toNat_true] at low high
  have := x.isLt
  have := y.isLt
  exact BitVec.eq_of_toNat_eq (by omega)

theorem setHalf_setHalf (x : Limb) (h : Bool) (v : Word) : setHalf (setHalf x h v) h v = setHalf x h v := by
  refine limb_ext_halves fun b => ?_
  obtain rfl | rfl := Bool.eq_or_eq_not b h
  · simp only [getHalf_setHalf_same]
  · simp only [getHalf_setHalf_other]

theorem State.setF_setF (s : State) (r : FReg) (x y : Elem) : (s.setF r x).setF r y = s.setF r y := by
  simp [State.setF]

/-! ### Reads (R61, R66, R67, R72) -/

theorem busRead_idle {s : State} (hb : s.busy = false) {off : Offset} {p : Port} (hp : portOf off = p) :
    s.busRead off = s.idleRead p := by
  rw [State.busRead, hb, Bool.false_and, if_neg Bool.false_ne_true, hp]

theorem busRead_hidden {s : State} (hb : s.busy = true) {off : Offset} {p : Port} (hp : portOf off = p)
    (hh : p.hiddenWhileBusy = true) : s.busRead off = 0 := by
  rw [State.busRead, hb, hp, hh]; rfl

theorem busRead_reserved (s : State) {off : Offset} (hp : portOf off = .reserved) : s.busRead off = 0 :=
  busRead_of_visible s hp rfl

theorem busRead_cmd (s : State) {off : Offset} (hp : portOf off = .cmd) : s.busRead off = 0 :=
  busRead_of_visible s hp rfl

/-- The ports hidden while BUSY = 1 stand at LCOUNT, SCALAR, IN, OUT and the window (R72). -/
theorem hiddenWhileBusy_of_range {off : Offset}
    (h : (0x010 ≤ off.toNat ∧ off.toNat < 0x014) ∨ (0x020 ≤ off.toNat ∧ off.toNat < 0x080) ∨ 0x400 ≤ off.toNat) :
    (portOf off).hiddenWhileBusy = true := by
  cases hp : portOf off with
  | id | ctrl | status | cmd | reserved => rw [portOf_eq_iff, Port.HasWord] at hp; omega
  | lcount | scalar | inp | out | window => rfl

theorem busRead_lcount_getLsbD (s : State) {i : Nat} (h : 8 ≤ i) : (s.busRead 0x010).getLsbD i = false := by
  cases hb : s.busy with
  | true => rw [busRead_hidden hb portOf_at_0x010 rfl]; exact BitVec.getLsbD_zero
  | false =>
    rw [busRead_idle hb portOf_at_0x010]
    simp [State.idleRead, h]

theorem State.ctrlWord_getLsbD (s : State) {i : Nat} (h : 1 ≤ i) : s.ctrlWord.getLsbD i = false := by
  refine Nat.testBit_lt_two_pow (Nat.lt_of_lt_of_le ?_ (Nat.pow_le_pow_right two_pos h))
  rw [s.ctrlWord_toNat]
  exact s.irqEn.toNat_lt

theorem State.statusWord_getLsbD (s : State) {i : Nat} (h : i = 3 ∨ 9 ≤ i) : s.statusWord.getLsbD i = false := by
  obtain rfl | h := h
  · simp only [State.statusWord, BitVec.getLsbD_append]
    simp
  · refine Nat.testBit_lt_two_pow (Nat.lt_of_lt_of_le ?_ (Nat.pow_le_pow_right two_pos h))
    have := s.busy.toNat_le
    have := s.done.toNat_le
    have := s.err.toNat_le
    have := s.irq.toNat_le
    rw [s.statusWord_toNat]
    omega

/-! ### Writes (R61, R64, R66, R72) -/

/-- The ports a write to which is a rejection while BUSY = 1: CMD, SCALAR, IN and the window (R72). -/
def Port.rejectsWhileBusy : Port → Bool
  | .cmd | .scalar _ | .inp _ | .window _ _ _ => true
  | .id | .ctrl | .status | .lcount | .reserved | .out _ => false

theorem writePort_rejected {s : State} (hb : s.busy = true) (v : Word) {p : Port} (hp : p.rejectsWhileBusy = true) :
    s.writePort v p = s.raise .busy := by
  cases p with
  | cmd | scalar | inp | window => exact if_pos hb
  | id | ctrl | status | lcount | reserved | out => cases hp

theorem rejectsWhileBusy_of_range {off : Offset}
    (h : (0x00C ≤ off.toNat ∧ off.toNat < 0x010) ∨ (0x020 ≤ off.toNat ∧ off.toNat < 0x060) ∨ 0x400 ≤ off.toNat) :
    (portOf off).rejectsWhileBusy = true := by
  cases hp : portOf off with
  | id | ctrl | status | lcount | reserved | out => rw [portOf_eq_iff, Port.HasWord] at hp; omega
  | cmd | scalar | inp | window => rfl

theorem State.writeData_idle {s : State} (hb : s.busy = false) (t : State) : s.writeData t = t := by
  rw [State.writeData, hb, if_neg Bool.false_ne_true]

theorem busWrite_scalar {s : State} (hb : s.busy = false) {off : Offset} {j : Fin 8} (hp : portOf off = .scalar j)
    (v : Word) : s.busWrite off v = { s with scalar := setWord s.scalar j v } :=
  (busWrite_of_port s hp v).trans (State.writeData_idle hb _)

theorem busWrite_inp {s : State} (hb : s.busy = false) {off : Offset} {j : Fin 8} (hp : portOf off = .inp j)
    (v : Word) : s.busWrite off v = { s with inp := setWord s.inp j v } :=
  (busWrite_of_port s hp v).trans (State.writeData_idle hb _)

theorem busWrite_window {s : State} (hb : s.busy = false) {off : Offset} {r : FReg} {i : Fin 16} {h : Bool}
    (hp : portOf off = .window r i h) (v : Word) :
    s.busWrite off v = s.setF r ((s.getF r).set i (setHalf (s.getF r)[i] h v)) :=
  (busWrite_of_port s hp v).trans (State.writeData_idle hb _)

/-- A write to ID, LCOUNT, OUT or a reserved offset is ignored (R66). -/
theorem busWrite_ignored (s : State) {off : Offset} (v : Word)
    (h : off.toNat < 0x004 ∨ (0x010 ≤ off.toNat ∧ off.toNat < 0x020) ∨ (0x060 ≤ off.toNat ∧ off.toNat < 0x400)) :
    s.busWrite off v = s := by
  cases hp : portOf off with
  | id | lcount | reserved | out => exact busWrite_of_port s hp v
  | ctrl | status | cmd | scalar | inp | window => rw [portOf_eq_iff, Port.HasWord] at hp; omega

/-- A window write sets one half of one limb: the other words of the map are those of other limbs and halves (R64). -/
theorem idleRead_setF_other (s : State) {r : FReg} {i : Fin 16} {h : Bool} (v : Word) {p : Port}
    (hp : p ≠ .window r i h) :
    (s.setF r ((s.getF r).set i (setHalf (s.getF r)[i] h v))).idleRead p = s.idleRead p := by
  cases p with
  | window r' i' h' =>
    simp only [State.idleRead, State.getF_setF]
    split
    · subst r'
      by_cases hi : i' = i
      · subst i'
        have hh : h' = !h := Bool.eq_not.2 fun e => hp (e ▸ rfl)
        simp [hh, getHalf_setHalf_other]
      · have : i.val ≠ i'.val := fun e => hi (Fin.ext e.symm)
        simp [this]
    · rfl
  | _ => rfl

/-- The word a window write leaves in the window. -/
theorem idleRead_setF_same (s : State) (r : FReg) (i : Fin 16) (h : Bool) (v : Word) :
    (s.setF r ((s.getF r).set i (setHalf (s.getF r)[i] h v))).idleRead (.window r i h) = v := by
  simp [State.idleRead, getHalf_setHalf_same]

/-! ### Writes done twice (R71) -/

theorem State.writeStatus_writeStatus (s : State) (v : Word) :
    (s.writeStatus v).writeStatus v = s.writeStatus v := by
  simp only [State.writeStatus, State.acknowledge, Bool.and_assoc, Bool.and_self]
  split <;> rfl

/-- A write done twice is the write done once, but for a write to CMD (R71). -/
theorem writePort_idempotent (s : State) (v : Word) {p : Port} (hp : p ≠ .cmd) :
    (s.writePort v p).writePort v p = s.writePort v p := by
  cases hb : s.busy with
  | true =>
    cases hr : p.rejectsWhileBusy with
    | true =>
      rw [writePort_rejected hb v hr, writePort_rejected (by simpa using hb) v hr, State.raise_raise]
    | false =>
      cases p with
      | status => exact s.writeStatus_writeStatus v
      | cmd | scalar | inp | window => cases hr
      | id | ctrl | lcount | reserved | out => rfl
  | false =>
    cases p with
    | cmd => exact absurd rfl hp
    | status => exact s.writeStatus_writeStatus v
    | scalar j => simp [State.writePort, State.writeData, hb, setWord_setWord]
    | inp j => simp [State.writePort, State.writeData, hb, setWord_setWord]
    | window r i h =>
      simp [State.writePort, State.writeData, hb, setHalf_setHalf, State.setF_setF]
    | id | ctrl | lcount | reserved | out => rfl

/-! ### A run of host accesses (R264, R265) -/

/-- What a host access does to the block, apart from the list of events still to come; other events are none. -/
def State.hostAccess (s : State) : Event → State
  | .hostRead off => s.hostRead off
  | .hostWrite off v => s.busWrite off v
  | .engine | .reset => s

theorem writeCmd_withEvents (s : State) (es : List Event) (w : Word) :
    ({ s with events := es } : State).writeCmd w = { s.writeCmd w with events := es } := by
  unfold State.writeCmd
  split
  · rfl
  · split
    · rfl
    · split <;> rfl

theorem busWrite_withEvents (s : State) (es : List Event) (off : Offset) (v : Word) :
    ({ s with events := es } : State).busWrite off v = { s.busWrite off v with events := es } := by
  unfold State.busWrite
  cases portOf off with
  | cmd => exact writeCmd_withEvents s es v
  | scalar | inp | window => simp only [State.writePort, State.writeData]; split <;> rfl
  | id | ctrl | status | lcount | reserved | out => rfl

theorem step_hostAccess (s : State) {e : Event} (he : isHostAccess e) (es : List Event) :
    step { s with events := e :: es } = .next { s.hostAccess e with events := es } := by
  cases e with
  | hostRead off => rfl
  | hostWrite off v => exact congrArg Host.Outcome.next (busWrite_withEvents s es off v)
  | engine | reset => exact he.elim

/-- A run begins with the host accesses that stand first in the list, one step each. -/
theorem core_run_hostAccesses (k : Nat) (rest : List Event) {es : List Event} (hes : ∀ e ∈ es, isHostAccess e)
    (s : State) :
    core.run (es.length + k) ({ s with events := es ++ rest } : State)
      = core.run k ({ es.foldl State.hostAccess s with events := rest } : State) := by
  induction es generalizing s with
  | nil => rw [List.length_nil, Nat.zero_add]; rfl
  | cons e es ih =>
    rw [List.length_cons, Nat.add_right_comm]
    exact (core_run_succ _ (step_hostAccess s (hes e (.head _)) _)).trans
      (ih (fun e' h => hes e' (.tail _ h)) (s.hostAccess e))

/-! ### Busy blocks the host cannot tell apart (R72, R268) -/

/-- Two blocks with a command in flight that agree on CTRL, STATUS and the answers so far. -/
structure BusyAlike (s s' : State) : Prop where
  busy    : s.busy = true
  busy'   : s'.busy = true
  irqEn   : s.irqEn = s'.irqEn
  done    : s.done = s'.done
  err     : s.err = s'.err
  errcode : s.errcode = s'.errcode
  reads   : s.reads = s'.reads

section
variable {s s' : State} (h : BusyAlike s s')
include h

theorem BusyAlike.busRead (off : Offset) : s.busRead off = s'.busRead off := by
  cases hp : portOf off with
  | id | cmd | reserved => rw [busRead_of_visible s hp rfl, busRead_of_visible s' hp rfl]; rfl
  | ctrl =>
    rw [busRead_of_visible s hp rfl, busRead_of_visible s' hp rfl]
    simp only [State.idleRead, State.ctrlWord, h.irqEn]
  | status =>
    rw [busRead_of_visible s hp rfl, busRead_of_visible s' hp rfl]
    simp only [State.idleRead, State.statusWord, State.irq, h.busy, h.busy', h.irqEn, h.done, h.err, h.errcode]
  | lcount | scalar | inp | out | window => rw [busRead_hidden h.busy hp rfl, busRead_hidden h.busy' hp rfl]

theorem BusyAlike.hostRead (off : Offset) : BusyAlike (s.hostRead off) (s'.hostRead off) :=
  { h with reads := by rw [State.hostRead_reads, State.hostRead_reads, h.busRead, h.reads] }

theorem BusyAlike.raise (c : ErrCode) : BusyAlike (s.raise c) (s'.raise c) :=
  { h with err := rfl, errcode := by rw [State.raise_errcode, State.raise_errcode, h.err, h.errcode] }

theorem BusyAlike.writeCtrl (v : Word) : BusyAlike (s.writeCtrl v) (s'.writeCtrl v) := { h with irqEn := rfl }

theorem BusyAlike.writeStatus (v : Word) : BusyAlike (s.writeStatus v) (s'.writeStatus v) :=
  { h with
    done := by simp only [State.writeStatus, State.acknowledge_done, h.done]
    err := by simp only [State.writeStatus, State.acknowledge_err, h.err]
    errcode := by simp only [State.writeStatus, State.acknowledge_errcode, h.errcode] }

theorem BusyAlike.busWrite (off : Offset) (v : Word) : BusyAlike (s.busWrite off v) (s'.busWrite off v) := by
  cases hp : portOf off with
  | ctrl => rw [busWrite_of_port s hp, busWrite_of_port s' hp]; exact h.writeCtrl v
  | status => rw [busWrite_of_port s hp, busWrite_of_port s' hp]; exact h.writeStatus v
  | id | lcount | reserved | out => rw [busWrite_of_port s hp, busWrite_of_port s' hp]; exact h
  | cmd | scalar | inp | window =>
    rw [busWrite_of_port s hp, busWrite_of_port s' hp, writePort_rejected h.busy v rfl,
      writePort_rejected h.busy' v rfl]
    exact h.raise .busy

theorem BusyAlike.hostAccess (e : Event) : BusyAlike (s.hostAccess e) (s'.hostAccess e) := by
  cases e with
  | hostRead off => exact h.hostRead off
  | hostWrite off v => exact h.busWrite off v
  | engine | reset => exact h

theorem BusyAlike.hostAccesses (es : List Event) :
    BusyAlike (es.foldl State.hostAccess s) (es.foldl State.hostAccess s') := by
  induction es generalizing s s' with
  | nil => exact h
  | cons e es ih => exact ih (h.hostAccess e)

end

/-! ### A command in flight under host accesses (R72, R74, R225) -/

theorem State.withEvents_sameData (s : State) (es : List Event) : SameData s { s with events := es } :=
  ⟨rfl, rfl, rfl, rfl, rfl⟩

theorem SameData.trans {s t u : State} (h : SameData s t) (h' : SameData t u) : SameData s u where
  f := h'.f.trans h.f
  scalar := h'.scalar.trans h.scalar
  inp := h'.inp.trans h.inp
  out := h'.out.trans h.out
  lcount := h'.lcount.trans h.lcount

/-- The command in flight, the data it will run on, and BUSY agree. -/
structure SameInFlight (s t : State) : Prop where
  data : SameData s t
  busy : t.busy = true
  cur  : t.cur = s.cur

theorem busWrite_sameInFlight {s : State} (hb : s.busy = true) (off : Offset) (v : Word) :
    SameInFlight s (s.busWrite off v) := by
  cases hp : portOf off with
  | cmd | scalar | inp | window =>
    rw [busWrite_of_port s hp, writePort_rejected hb v rfl]
    exact ⟨s.raise_sameData _, hb, rfl⟩
  | ctrl => rw [busWrite_of_port s hp]; exact ⟨s.writeCtrl_sameData v, hb, rfl⟩
  | status => rw [busWrite_of_port s hp]; exact ⟨s.writeStatus_sameData v, hb, rfl⟩
  | id | lcount | reserved | out => rw [busWrite_of_port s hp]; exact ⟨.refl s, hb, rfl⟩

theorem hostAccess_sameInFlight {s : State} (hb : s.busy = true) (e : Event) :
    SameInFlight s (s.hostAccess e) := by
  cases e with
  | hostRead off => exact ⟨⟨rfl, rfl, rfl, rfl, rfl⟩, hb, rfl⟩
  | hostWrite off v => exact busWrite_sameInFlight hb off v
  | engine | reset => exact ⟨.refl s, hb, rfl⟩

theorem hostAccesses_sameInFlight {s : State} (hb : s.busy = true) (es : List Event) :
    SameInFlight s (es.foldl State.hostAccess s) := by
  induction es generalizing s with
  | nil => exact ⟨.refl s, hb, rfl⟩
  | cons e es ih =>
    have first := hostAccess_sameInFlight hb e
    have later := ih first.busy
    exact ⟨first.data.trans later.data, later.busy, later.cur.trans first.cur⟩

/-! ### A command's result depends on the data registers alone (R74, R124) -/

section
variable {s t : State} (h : SameData s t)
include h

theorem SameData.getF (r : FReg) : t.getF r = s.getF r := congrArg (·[r]) h.f

theorem SameData.opnd (s1 : Src) : t.opnd s1 = s.opnd s1 := by
  cases s1 with
  | reg r => exact h.getF r
  | kzero | kone | knine | ka24 => rfl

theorem SameData.setF (r : FReg) (v : Elem) : SameData (s.setF r v) (t.setF r v) :=
  { h with f := congrArg (·.set r v) h.f }

theorem SameData.setOut (b : ByteReg) : SameData { s with out := b } { t with out := b } := { h with out := rfl }

theorem SameData.complete : SameData s.complete t.complete := { h with }

theorem SameData.rejectInFlight (c : ErrCode) : SameData (s.rejectInFlight c) (t.rejectInFlight c) := { h with }

theorem SameData.ladderRegs : t.ladderRegs = s.ladderRegs := by simp only [State.ladderRegs, h.f]

theorem SameData.setLadderRegs (l : LadderRegs) : SameData (s.setLadderRegs l) (t.setLadderRegs l) :=
  { h with f := by simp only [State.setLadderRegs_f, h.f] }

theorem SameData.linitBody : SameData (linitBody s) (linitBody t) :=
  { h with
    f := by simp only [linitBody_f, h.f]
    lcount := rfl }

theorem SameData.lstepBody : SameData (lstepBody s) (lstepBody t) :=
  { h with
    f := by rw [lstepBody_f, lstepBody_f, h.scalar, h.lcount, h.ladderRegs, (h.setLadderRegs _).f]
    lcount := by rw [lstepBody_lcount, lstepBody_lcount, h.lcount] }

theorem SameData.lstepLoop (n : Nat) : SameData (lstepLoop n s) (lstepLoop n t) := by
  induction n generalizing s t with
  | zero => exact h
  | succ n ih => exact ih h.lstepBody

theorem SameData.lfinishBody : SameData (lfinishBody s) (lfinishBody t) := by
  rw [lfinishBody_eq, lfinishBody_eq, h.getF, h.getF]
  exact ((h.setF _ _).setF _ _).setOut _

theorem exec_sameData (i : Instr) : ∃ u u', exec i s = .next u ∧ exec i t = .next u' ∧ SameData u u' := by
  cases i with
  | fadd d s1 s2 =>
    refine ⟨_, _, exec_fadd d s1 s2 s, exec_fadd d s1 s2 t, ?_⟩
    rw [h.opnd, h.opnd]; exact (h.setF _ _).complete
  | fsub d s1 s2 =>
    refine ⟨_, _, exec_fsub d s1 s2 s, exec_fsub d s1 s2 t, ?_⟩
    rw [h.opnd, h.opnd]; exact (h.setF _ _).complete
  | fmul d s1 s2 =>
    refine ⟨_, _, exec_fmul d s1 s2 s, exec_fmul d s1 s2 t, ?_⟩
    rw [h.opnd, h.opnd]; exact (h.setF _ _).complete
  | fcarry d =>
    refine ⟨_, _, exec_fcarry d s, exec_fcarry d t, ?_⟩
    rw [h.getF]; exact (h.setF _ _).complete
  | fcswap a b flag =>
    refine ⟨_, _, exec_fcswap a b flag s, exec_fcswap a b flag t, ?_⟩
    rw [h.getF, h.getF]; exact ((h.setF _ _).setF _ _).complete
  | finv d s1 =>
    refine ⟨_, _, exec_finv d s1 s, exec_finv d s1 t, ?_⟩
    rw [h.opnd]; exact (h.setF _ _).complete
  | funpack d =>
    refine ⟨_, _, exec_funpack d s, exec_funpack d t, ?_⟩
    rw [h.inp]; exact (h.setF _ _).complete
  | fpack s1 =>
    refine ⟨_, _, exec_fpack s1 s, exec_fpack s1 t, ?_⟩
    rw [h.opnd]; exact (h.setOut _).complete
  | linit => exact ⟨_, _, exec_linit s, exec_linit t, h.linitBody.complete⟩
  | lstep =>
    by_cases hl : s.lcount = 0
    · exact ⟨_, _, exec_lstep_zero s hl, exec_lstep_zero t (h.lcount.trans hl), h.rejectInFlight _⟩
    · exact ⟨_, _, exec_lstep s hl, exec_lstep t (h.lcount ▸ hl), h.lstepBody.complete⟩
  | lfinish => exact ⟨_, _, exec_lfinish s, exec_lfinish t, h.lfinishBody.complete⟩
  | ladder => exact ⟨_, _, exec_ladder s, exec_ladder t, (h.linitBody.lstepLoop 255).lfinishBody.complete⟩

end

end Sys2Proof.Machine

/-! ### A command the host writes is accepted (30_encoding.md R97; 60_exceptions.md R224, R225) -/

namespace Sys2Proof

theorem decode_encode (i : Instr) : decode (encode i) = .ok i := by
  rw [decode_encode_command]
  cases i with
  | fcswap a b flag => cases flag <;> simp [decodeCommand, Instr.command, pure, Except.pure, bind, Except.bind]
  | _ => simp [decodeCommand, Instr.command, pure, Except.pure, bind, Except.bind]

theorem opcode_encode (i : Instr) : (encode i).extractLsb' 0 8 = i.command.op :=
  congrArg Command.op (Command.ofWord_word i.command)

theorem eq_lstep_of_opcode {i : Instr} (h : (encode i).extractLsb' 0 8 = 0x11) : i = .lstep := by
  rw [opcode_encode] at h
  cases i with
  | lstep => rfl
  | _ => exact absurd h (by simp [Instr.command])

end Sys2Proof

namespace Sys2Proof.Machine

open Sys2Proof.Claims

theorem busWrite_cmd_accepted {s : State} {i : Instr} (hb : s.busy = false) (hi : ¬ (i = .lstep ∧ s.lcount = 0)) :
    s.busWrite 0x00C (encode i) = s.accept (encode i) := by
  rw [busWrite_of_port s portOf_at_0x00C]
  obtain ⟨hb', -⟩ | ⟨-, ⟨e, he⟩, -⟩ | ⟨-, -, hop, hl, -⟩ | ⟨-, -, -, h⟩ := writeCmd_cases s (encode i)
  · rw [hb] at hb'; cases hb'
  · rw [decode_encode] at he; cases he
  · exact absurd ⟨eq_lstep_of_opcode hop, hl⟩ hi
  · exact h

theorem step_engine {s : State} {i : Instr} (hb : s.busy = true) (hd : decode s.cur = .ok i) (es : List Event) :
    step { s with events := .engine :: es } = exec i { s with events := es } :=
  engineTurn_ok ({ s with events := es } : State) hb hd

/-- A command written while idle, any host accesses and the engine's turn: the turn runs that command on the state the
accesses left. -/
theorem core_run_command {s : State} {i : Instr} {es : List Event} (hb : s.busy = false)
    (hi : ¬ (i = .lstep ∧ s.lcount = 0)) (hes : ∀ e ∈ es, isHostAccess e) {t : State}
    (ht : exec i ({ es.foldl State.hostAccess (s.accept (encode i)) with events := [] } : State) = .next t) :
    core.run (es.length + 2) ({ s with events := .hostWrite 0x00C (encode i) :: (es ++ [.engine]) } : State)
      = .next t := by
  have accesses := core_run_hostAccesses 1 [.engine] (es := .hostWrite 0x00C (encode i) :: es)
    (by simpa [isHostAccess] using hes) s
  rw [List.foldl_cons, State.hostAccess, busWrite_cmd_accepted hb hi] at accesses
  obtain ⟨-, hbusy, hcur⟩ := hostAccesses_sameInFlight (s := s.accept (encode i)) rfl es
  have hdec := (congrArg decode hcur).trans (decode_encode i)
  exact accesses.trans (core_run_succ 0 ((step_engine hbusy hdec []).trans ht))

/-! ### The obligations of 20_memory.md -/

/-- Settles O40, port by port: the word of each offset, then what an idle block answers there. -/
theorem idleReadMap : Obligations.IdleReadMap := by
  intro s hb
  refine ⟨busRead_id s, busRead_ctrl s, busRead_status s, busRead_cmd s portOf_at_0x00C, ?_,
    fun off h => busRead_reserved s (portOf_reserved h), fun j m => ⟨?_, ?_, ?_⟩, fun r i => ⟨?_, ?_⟩⟩
  · rw [busRead_idle hb portOf_at_0x010]
    exact (BitVec.toNat_setWidth ..).trans (Nat.mod_eq_of_lt (by omega))
  · rw [busRead_idle hb (portOf_scalar j)]; exact getWord_byte s.scalar j m
  · rw [busRead_idle hb (portOf_inp j)]; exact getWord_byte s.inp j m
  · rw [busRead_idle hb (portOf_out j)]; exact getWord_byte s.out j m
  · exact busRead_idle hb (portOf_window r i false)
  · exact busRead_idle hb (portOf_window r i true)

/-- Settles O41: the accesses see the offset through the word it names. -/
theorem wordAddressing : Obligations.WordAddressing := by
  refine ⟨fun s off v => ⟨?_, ?_⟩, offsetOf_base_add, fun addr h => if_neg (by omega)⟩
  · rw [State.busRead, State.busRead, portOf_clear_low]
  · rw [State.busWrite, State.busWrite, portOf_clear_low]

/-- Settles O42, from the ports that are hidden and those that reject while BUSY = 1. -/
theorem busyAccesses : Obligations.BusyAccesses := by
  intro s off v hb
  refine ⟨fun h => busRead_hidden hb rfl (hiddenWhileBusy_of_range h),
    fun h => writePort_rejected hb v (rejectsWhileBusy_of_range h), fun h => ?_⟩
  cases hp : portOf off with
  | id | ctrl | status =>
    rw [busWrite_of_port _ hp, busWrite_of_port _ hp]
    exact ⟨busRead_of_visible s hp rfl, hb, rfl⟩
  | cmd | lcount | reserved | scalar | inp | out | window => rw [portOf_eq_iff, Port.HasWord] at hp; omega

/-- Settles O43: blocks the host cannot tell apart answer alike and stay so, access by access. -/
theorem hostLearnsNothingWhileBusy : Obligations.HostLearnsNothingWhileBusy := by
  intro es s s' hes hb hb' hirq hdone herr hcode hreads
  have alike := (BusyAlike.mk hb hb' hirq hdone herr hcode hreads).hostAccesses es
  have run := core_run_hostAccesses 0 [] hes
  rw [List.append_nil] at run
  exact ⟨_, _, run s, run s', alike.reads, alike.busy, alike.busy'⟩

/-- Settles O44: the write sets the half, and the half is what the read of its word returns. -/
theorem windowWriteSetsHalf : Obligations.WindowWriteSetsHalf := by
  intro s r i h v hb
  obtain ⟨b, hh⟩ : ∃ b : Bool, h.val = b.toNat := ⟨h.val == 1, by have := h.isLt; interval_cases h.val <;> rfl⟩
  rw [hh]
  have hp := portOf_window r i b
  refine ⟨_, busWrite_window hb hp v, ?_, ?_, fun off hoff => ?_, ?_, rfl⟩
  · rw [busRead_idle hb hp]
    exact getHalf_toNat _ b
  · rw [busRead_idle (s := s.setF r _) hb hp, idleRead_setF_same]
  · have other : portOf off ≠ .window r i b := fun e => by
      rw [portOf_eq_iff, Port.HasWord] at e
      omega
    rw [busRead_idle (s := s.setF r _) hb rfl, busRead_idle hb rfl, idleRead_setF_other s v other]
  · rw [State.getF_setF_same, Fin.getElem_fin, Vector.getElem_set_self, setHalf_toNat]
    cases b <;> rfl

/-- Settles O45: the bytes of the word are set and read back. -/
theorem byteRegisterWrite : Obligations.ByteRegisterWrite := by
  intro s j v hb
  refine ⟨⟨_, busWrite_scalar hb (portOf_scalar j) v, fun k => setWord_getElem _ j v k.isLt, ?_, rfl⟩,
    ⟨_, busWrite_inp hb (portOf_inp j) v, fun k => setWord_getElem _ j v k.isLt, ?_, rfl⟩⟩
  · rw [busRead_idle (by exact hb) (portOf_scalar j)]
    exact getWord_setWord s.scalar j v
  · rw [busRead_idle (by exact hb) (portOf_inp j)]
    exact getWord_setWord s.inp j v

/-- Settles O46, from the ports of the ranges and the bits of CTRL, STATUS and LCOUNT. -/
theorem readOnlyAndReserved : Obligations.ReadOnlyAndReserved := by
  refine ⟨fun s _ => busWrite_ignored s, fun s off h => ?_, fun s i => ⟨fun h => ?_, fun h => ?_, fun h => ?_⟩⟩
  · obtain h | h := h
    · exact busRead_cmd s (portOf_cmd h)
    · exact busRead_reserved s (portOf_reserved h)
  · rw [busRead_ctrl]; exact s.ctrlWord_getLsbD h
  · rw [busRead_status]; exact s.statusWord_getLsbD h
  · exact busRead_lcount_getLsbD s h

/-- Settles O48: an idle write outside CMD and STATUS touches no status, and a write repeats without effect. -/
theorem accessesIdempotent : Obligations.AccessesIdempotent := by
  refine ⟨fun s off v hb hcmd hstatus => ?_, fun s off v h => writePort_idempotent s v h, fun s off => rfl⟩
  cases hp : portOf off with
  | cmd => exact absurd hp hcmd
  | status => exact absurd hp hstatus
  | scalar j => rw [busWrite_scalar hb hp]; exact ⟨hb, rfl, rfl, rfl, rfl⟩
  | inp j => rw [busWrite_inp hb hp]; exact ⟨hb, rfl, rfl, rfl, rfl⟩
  | window r i h => rw [busWrite_window hb hp]; exact ⟨hb, rfl, rfl, rfl, rfl⟩
  | id | ctrl | lcount | reserved | out => rw [busWrite_of_port s hp]; exact ⟨hb, rfl, rfl, rfl, rfl⟩

/-- Settles O57: the write is accepted, the accesses leave the command and its data, and the completion runs it. -/
theorem resultFixedAtAcceptance : Obligations.ResultFixedAtAcceptance := by
  intro s i es hb hi hes
  have data := (s.accept_sameData (encode i)).trans (hostAccesses_sameInFlight rfl es).data
  have same := data.trans (State.withEvents_sameData _ [])
  obtain ⟨u, t, hu, ht, result⟩ := exec_sameData same i
  have completed := (exec_next_effect ht).completed fun ⟨h, h'⟩ => hi ⟨h, same.lcount ▸ h'⟩
  exact ⟨t, u, core_run_command hb hi hes ht, hu, result.f, result.out, result.lcount,
    completed.scalar.trans same.scalar, completed.inp.trans same.inp, completed.busy, completed.done⟩

end Sys2Proof.Machine
end

section
/-! PROOFS of the family 30_encoding.md: what the decoder accepts, the fields of each command's word, and what each
source operand reads. -/

namespace Sys2Proof

/-! ### The decoder accepts exactly the commands' fields (30_encoding.md R97, R99) -/

theorem ofBool_beq_one (v : BitVec 1) : BitVec.ofBool (v == 1) = v := by revert v; decide

/-- The decoder drops no field: the fields it reads a command from are that command's. -/
theorem eq_command_of_decodeCommand {c : Command} {i : Instr} (h : decodeCommand c = .ok i) : c = i.command := by
  have hop := decodeCommand_ok_op h
  obtain ⟨op, rd, rs1, rs2, s, rsv⟩ := c
  subst hop
  unfold decodeCommand at h
  by_cases hr : rsv ≠ 0
  · rw [if_pos hr] at h; cases h
  rw [if_neg hr] at h
  obtain rfl := not_not.1 hr
  split at h <;> simp only [except_bind_eq_ok, decodeUnused_eq_ok, decodeDst_eq_ok, decodeSrc_eq_ok, exists_const, pure,
    Except.pure, Except.ok.injEq] at h
  case h_1 | h_2 | h_3 => obtain ⟨rfl, d, rfl, s1, rfl, s2, rfl, rfl⟩ := h; rfl
  case h_4 | h_7 => obtain ⟨rfl, rfl, rfl, d, rfl, rfl⟩ := h; rfl
  case h_5 => obtain ⟨rfl, a, rfl, b, rfl, rfl⟩ := h; simp only [Instr.command, ofBool_beq_one]; rfl
  case h_6 => obtain ⟨rfl, rfl, d, rfl, s1, rfl, rfl⟩ := h; rfl
  case h_8 => obtain ⟨rfl, rfl, rfl, s1, rfl, rfl⟩ := h; rfl
  case h_9 | h_10 | h_11 | h_12 => obtain ⟨rfl, rfl, rfl, rfl, rfl⟩ := h; rfl
  case h_13 => cases h

/-- A legal word is the encoding of the command it decodes to. -/
theorem encode_of_decode {w : Word} {i : Instr} (h : decode w = .ok i) : encode i = w := by
  rw [encode, ← eq_command_of_decodeCommand h, Command.word_ofWord]

/-! ### Which fields are legal (30_encoding.md R98) -/

theorem exists_decodeDst_eq_ok_iff (v : BitVec 4) :
    (∃ r, decodeDst v = .ok r) ↔ FieldKind.dst.allows v.toNat = true := by
  revert v; decide

theorem exists_decodeSrc_eq_ok_iff (v : BitVec 4) :
    (∃ s, decodeSrc v = .ok s) ↔ FieldKind.src.allows v.toNat = true := by
  have isOk : ∀ u : BitVec 4, (decodeSrc u).isOk = FieldKind.src.allows u.toNat := by decide
  rw [← isOk v]
  cases decodeSrc v <;> simp [Except.isOk, Except.toBool]

theorem decodeUnused_eq_ok_iff_allows {n : Nat} (v : BitVec n) (u : Unit) :
    decodeUnused v = .ok u ↔ FieldKind.zero.allows v.toNat = true := by
  rw [decodeUnused_eq_ok, FieldKind.allows, decide_eq_true_iff, BitVec.toNat_eq, BitVec.toNat_ofNat, Nat.zero_mod]

theorem flag_allows (v : BitVec 1) : FieldKind.flag.allows v.toNat = true := by revert v; decide

theorem Command.opAssigned_iff (c : Command) : c.opAssigned = true ↔ c.op ∈ opcodeMap.map OpRow.op := by
  simp [Command.opAssigned]

/-- A check and what follows it can pass when each can. -/
theorem exists_bind_eq_ok_iff {ε α β : Type} (x : Except ε α) (f : α → Except ε β) :
    (∃ b, (x >>= f) = .ok b) ↔ ∃ a, x = .ok a ∧ ∃ b, f a = .ok b := by
  simp only [except_bind_eq_ok]
  rw [exists_comm]
  simp only [exists_and_left]

theorem exists_pure_eq_ok_iff {ε α : Type} (a : α) : (∃ b, (pure a : Except ε α) = .ok b) ↔ True := by
  simp [pure, Except.pure]

/-- The decoder accepts exactly the fields in which no cause of R98 holds. -/
theorem exists_decodeCommand_eq_ok_iff (c : Command) : (∃ i, decodeCommand c = .ok i) ↔ c.wellFormed = true := by
  rw [Laws.EncodesLegal.wellFormed_iff, Command.opAssigned_iff]
  by_cases hr : c.rsv = 0
  case neg => exact ⟨fun ⟨i, h⟩ => (by cases (if_pos hr).symm.trans h), fun h => absurd h.2.1 hr⟩
  rw [decodeCommand, if_neg (not_not.2 hr), opcodeMap]
  split
  case h_13 =>
    constructor
    · rintro ⟨i, h⟩; cases h
    · rintro ⟨h, -⟩
      simp only [List.map_cons, List.map_nil, List.mem_cons, List.not_mem_nil, or_false] at h
      tauto
  all_goals
    simp only [exists_bind_eq_ok_iff, exists_pure_eq_ok_iff, decodeUnused_eq_ok_iff_allows, exists_decodeDst_eq_ok_iff,
      exists_decodeSrc_eq_ok_iff, exists_and_right, exists_const, OpRow.fieldsAllowed, flag_allows, Bool.and_eq_true, *,
      List.map_cons, List.mem_cons, List.not_mem_nil, forall_eq_or_imp, forall_eq, or_false, BitVec.reduceEq,
      BitVec.ofNat_eq_ofNat, IsEmpty.forall_iff, forall_const, true_or, or_true, true_and, and_true]
    tauto

theorem FieldKind.not_allows_iff (k : FieldKind) {n : Nat} (v : BitVec n) :
    ¬ k.allows v.toNat = true ↔ (k = .zero ∧ v ≠ 0) ∨ (k = .src ∧ 0xC ≤ v.toNat) ∨ (k = .dst ∧ 8 ≤ v.toNat) ∨
      (k = .flag ∧ 2 ≤ v.toNat) := by
  cases k with
  | zero => simp [FieldKind.allows, BitVec.toNat_eq]
  | dst | src | flag => simp [FieldKind.allows, Nat.lt_iff_add_one_le]

/-- No row reads RD as a source, only S can be the flag, and S names no register (R97). -/
theorem opcodeMap_kinds : ∀ row ∈ opcodeMap, (row.rd ≠ .src ∧ row.rd ≠ .flag) ∧ row.rs1 ≠ .flag ∧ row.rs2 ≠ .flag ∧
    row.s ≠ .src ∧ row.s ≠ .dst := by decide

/-- Causes (c), (d) and (e) of R98, field by field. -/
theorem not_fieldsAllowed_iff {row : OpRow} (hrow : row ∈ opcodeMap) (c : Command) :
    ¬ row.fieldsAllowed c = true ↔
      (row.rd = .zero ∧ c.rd ≠ 0) ∨ (row.rs1 = .zero ∧ c.rs1 ≠ 0) ∨ (row.rs2 = .zero ∧ c.rs2 ≠ 0) ∨
      (row.s = .zero ∧ c.s ≠ 0) ∨ (row.rs1 = .src ∧ 0xC ≤ c.rs1.toNat) ∨ (row.rs2 = .src ∧ 0xC ≤ c.rs2.toNat) ∨
      (row.rd = .dst ∧ 8 ≤ c.rd.toNat) ∨ (row.rs1 = .dst ∧ 8 ≤ c.rs1.toNat) ∨ (row.rs2 = .dst ∧ 8 ≤ c.rs2.toNat) := by
  obtain ⟨⟨hrd, hrd'⟩, hrs1, hrs2, hs, hs'⟩ := opcodeMap_kinds row hrow
  have hflag : ¬ 2 ≤ c.s.toNat := by omega
  simp only [OpRow.fieldsAllowed, Bool.and_eq_true, not_and_or, FieldKind.not_allows_iff, hrd, hrd', hrs1, hrs2, hs,
    hs', hflag, false_and, and_false, or_false, false_or]
  exact iff_of_eq (by ac_rfl)

theorem exists_error_iff {ε α : Type} (x : Except ε α) : (∃ e, x = .error e) ↔ ¬ ∃ a, x = .ok a := by
  cases x <;> simp

/-- A word is illegal exactly when one of the causes of R98 holds. -/
theorem exists_decode_eq_error_iff (w : Word) :
    (∃ e, decode w = .error e) ↔ (Command.ofWord w).op ∉ opcodeMap.map OpRow.op ∨ (Command.ofWord w).rsv ≠ 0 ∨
      ∃ row ∈ opcodeMap, row.op = (Command.ofWord w).op ∧ ¬ row.fieldsAllowed (Command.ofWord w) = true := by
  rw [exists_error_iff, decode, exists_decodeCommand_eq_ok_iff, Laws.EncodesLegal.wellFormed_iff,
    Command.opAssigned_iff, not_and_or, not_and_or]
  push Not
  rfl

/-! ### The fields of a word (R91) -/

theorem Src.spec_toNat (s : Src) : s.spec.toNat = Claims.srcNumber s := by
  cases s with
  | reg r => exact FReg.spec_toNat r
  | kzero | kone | knine | ka24 => rfl

end Sys2Proof

namespace Sys2Proof.Machine

open Sys2Proof.Claims

theorem fieldsOf_word (c : Command) :
    fieldsOf c.word = (c.op.toNat, c.rd.toNat, c.rs1.toNat, c.rs2.toNat, c.s.toNat, c.rsv.toNat) := by
  simp only [fieldsOf, Command.word, toNat_append_eq_add, Prod.mk.injEq]
  refine ⟨?_, ?_, ?_, ?_, ?_, ?_⟩ <;> omega

/-! ### An illegal word at CMD (R98; 60_exceptions.md R224) -/

theorem busWrite_cmd_illegal {s : State} {w : Word} (hb : s.busy = false) (he : ∃ e, decode w = .error e) :
    s.busWrite 0x00C w = s.raise .illegal := by
  obtain ⟨e, he⟩ := he
  rw [busWrite_of_port s portOf_at_0x00C]
  obtain ⟨hb', -⟩ | ⟨-, -, h⟩ | ⟨-, ⟨i, hi⟩, -⟩ | ⟨-, ⟨i, hi⟩, -⟩ := writeCmd_cases s w
  · rw [hb] at hb'; cases hb'
  · exact h
  · rw [he] at hi; cases hi
  · rw [he] at hi; cases hi

/-! ### The constants (10_state.md R23, R24) -/

/-- The base-B digits below digit n sum to the value modulo B^n. -/
theorem sum_digits_eq_mod (B v n : Nat) : ∑ k ∈ Finset.range n, v / B ^ k % B * B ^ k = v % B ^ n := by
  induction n with
  | zero => rw [Finset.sum_range_zero, pow_zero, Nat.mod_one]
  | succ n ih => rw [Finset.sum_range_succ, ih, Nat.mod_pow_succ, Nat.mul_comm]

theorem limbs_toInt (v : Nat) {i : Nat} (h : i < 16) :
    (limbs v)[i].toInt = ((v / 2 ^ (16 * i) % 2 ^ 16 : Nat) : Int) := by
  rw [limbs_getElem v h, BitVec.toInt_eq_toNat_of_lt, BitVec.toNat_ofNat]
  · omega
  · rw [BitVec.toNat_ofNat]; omega

/-- `val(limbs(v)) = v` for `0 ≤ v < 2^256` (00_scope.md R14). -/
theorem val_limbs {v : Nat} (h : v < 2 ^ 256) : val (limbs v) = v := by
  have digits : val (limbs v) = ((∑ k ∈ Finset.range 16, v / (2 ^ 16) ^ k % 2 ^ 16 * (2 ^ 16) ^ k : Nat) : Int) := by
    rw [val_eq_sum, Finset.sum_range, Nat.cast_sum]
    refine Finset.sum_congr rfl fun i _ => ?_
    rw [Fin.getElem_fin, limbs_toInt v i.isLt, ← Nat.cast_mul, pow_mul]
  rw [digits, sum_digits_eq_mod, ← pow_mul, Nat.mod_eq_of_lt h]

/-- A value of one limb has only limb 0. -/
theorem limbs_getElem_of_lt {v : Nat} (h : v < 2 ^ 16) (i : Fin 16) :
    (limbs v)[i] = if i = 0 then BitVec.ofNat 64 v else 0 := by
  rw [Fin.getElem_fin, limbs_getElem v i.isLt]
  split
  case isTrue hi => rw [hi, Fin.val_zero, Nat.mul_zero, pow_zero, Nat.div_one, Nat.mod_eq_of_lt h]
  case isFalse hi =>
    have : 2 ^ 16 ≤ 2 ^ (16 * i.val) := Nat.pow_le_pow_right (by decide) (by omega)
    rw [Nat.div_eq_of_lt (by omega)]; rfl

/-! ### The obligations of 30_encoding.md -/

/-- Settles O2: the decoder accepts the fields of a command and no others. -/
theorem decodeEncodeAgree : Obligations.DecodeEncodeAgree := ⟨decode_encode, fun _ _ => encode_of_decode⟩

/-- Settles O3: the decoder refuses the fields that break their row of the map, and the write raises ERR_ILLEGAL. -/
theorem illegalExactlyWhenR98 : Obligations.IllegalExactlyWhenR98 := by
  refine ⟨fun w => ?_, fun s w hb he => busWrite_cmd_illegal hb he, .unassignedOpcode, by decide⟩
  rw [exists_decode_eq_error_iff]
  exact or_congr_right (or_congr_right (exists_congr fun row => and_congr_right fun hrow =>
    and_congr_right fun _ => not_fieldsAllowed_iff hrow _))

/-- Settles O4: the fields of a word are those of its command, and an operand's specifier is its number. -/
theorem commandWordLayout : Obligations.CommandWordLayout := by
  refine ⟨?_, ?_, ?_, ?_, ?_, ?_, ?_, ?_, ?_⟩
  all_goals simp [encode, fieldsOf_word, Instr.command, FReg.spec_toNat, Src.spec_toNat]

/-- Settles O1: the words are the encodings, and a command's encoding decodes to it. -/
theorem documentedWordsDecode : Obligations.DocumentedWordsDecode := by
  intro x hx
  have henc : encode x.2 = x.1 := by revert x; decide
  exact ⟨henc ▸ decode_encode x.2, henc⟩

/-- Settles O5, limb by limb. -/
theorem sourceOperandsRead : Obligations.SourceOperandsRead := by
  intro s
  refine ⟨fun r => rfl, fun i => ?_, fun i => limbs_getElem_of_lt (by decide) i,
    fun i => limbs_getElem_of_lt (by decide) i, fun i => ?_, val_limbs (by decide)⟩
  · exact (limbs_getElem_of_lt (by decide) i).trans (ite_self _)
  · rw [State.opnd_ka24, ka24, Fin.getElem_fin, limbs_getElem _ i.isLt]
    revert i; decide

end Sys2Proof.Machine
end

section
/-! PROOFS of the family 40_field_arith.md: sums and differences of limbs, the carries of CARRY and what they do to a
value, the columns of MULRED and their envelope, the chain of INV, and what each command writes. -/

namespace Sys2Proof.Machine

open Sys2Proof.Claims

/-! ### Limbs as integers (00_scope.md R11, R14) -/

theorem limbInt_of_lt (x : Elem) {k : Nat} (h : k < 16) : limbInt x k = x[k].toInt := dif_pos h

theorem limbInt_of_ge (x : Elem) {k : Nat} (h : 16 ≤ k) : limbInt x k = 0 := dif_neg (by omega)

theorem limbInt_fin (x : Elem) (i : Fin 16) : limbInt x i = x[i].toInt := limbInt_of_lt x i.isLt

theorem val_eq_sum_limbInt (x : Elem) : val x = ∑ k ∈ Finset.range 16, limbInt x k * 65536 ^ k := by
  rw [val_eq_sum, Finset.sum_range]
  refine Finset.sum_congr rfl fun i _ => ?_
  rw [limbInt_fin, pow_mul]
  push_cast
  rfl

theorem fieldPrime_cast : (fieldPrime : Int) = 2 ^ 255 - 19 := by decide

theorem toInt_fitsLimb (x : Limb) : FitsLimb x.toInt := ⟨BitVec.le_toInt x, BitVec.toInt_lt⟩

theorem wrap64_toInt_of_fitsLimb {n : Int} (h : FitsLimb n) : (wrap64 n).toInt = n :=
  wrap64_toInt_of_range h.1 h.2

/-- A wrap keeps the low 16 bits. -/
theorem wrap64_toInt_mod (n : Int) : (wrap64 n).toInt % 65536 = n % 65536 := by
  rw [wrap64_toInt, Int.bmod_def]; omega

theorem wrap64_list_sum (l : List Int) : wrap64 l.sum = (l.map wrap64).sum := by
  induction l with
  | nil => rfl
  | cons n l ih => rw [List.sum_cons, wrap64_add, ih, List.map_cons, List.sum_cons]

section
variable {x : Elem} {b : Int}

theorem within_mono (h : Within x b) {c : Int} (hbc : b ≤ c) : Within x c := fun i => by
  have := h i; omega

theorem abs_limbInt_lt (h : Within x b) (k : Nat) : |limbInt x k| < b := by
  by_cases hk : k < 16
  · rw [limbInt_of_lt x hk, abs_lt]; exact h ⟨k, hk⟩
  · rw [limbInt_of_ge x (by omega), abs_zero]
    have := h 0; omega

end

/-! ### ADD and SUB (R125, R126, R135) -/

theorem addLimbs_toInt {x y : Elem} {i : Fin 16} (h : FitsLimb (x[i].toInt + y[i].toInt)) :
    (addLimbs x y)[i].toInt = x[i].toInt + y[i].toInt := by
  simpa [addLimbs] using wrap64_toInt_of_fitsLimb h

theorem subLimbs_toInt {x y : Elem} {i : Fin 16} (h : FitsLimb (x[i].toInt - y[i].toInt)) :
    (subLimbs x y)[i].toInt = x[i].toInt - y[i].toInt := by
  simpa [subLimbs] using wrap64_toInt_of_fitsLimb h

theorem val_addLimbs {x y : Elem} (h : ∀ i : Fin 16, FitsLimb (x[i].toInt + y[i].toInt)) :
    val (addLimbs x y) = val x + val y := by
  simp only [val_eq_sum, addLimbs_toInt (h _), add_mul, Finset.sum_add_distrib]

theorem val_subLimbs {x y : Elem} (h : ∀ i : Fin 16, FitsLimb (x[i].toInt - y[i].toInt)) :
    val (subLimbs x y) = val x - val y := by
  simp only [val_eq_sum, subLimbs_toInt (h _), sub_mul, Finset.sum_sub_distrib]

theorem subLimbs_self (x : Elem) : subLimbs x x = limbs 0 :=
  Vector.ext fun i hi => by rw [subLimbs_getElem x x hi, limbs_getElem 0 hi, BitVec.sub_self, Nat.zero_div]; rfl

/-! ### CARRY, limb by limb (R120) -/

theorem carryStep_reduces (x : Elem) {i : Fin 16} {k : Nat} (hk : k < 16) (h : k = i.val) :
    (carryStep x i)[k] = wrap64 (x[k].toInt % 65536) := by
  subst h; rw [carryStep_getElem x i hk, if_pos rfl]; rfl

theorem carryStep_carries (x : Elem) {i : Fin 16} {k : Nat} (hk : k < 16) (h : k = i.val + 1) :
    (carryStep x i)[k] = wrap64 (x[k].toInt + x[i].toInt / 65536) := by
  rw [carryStep_getElem x i hk, if_neg (by omega), if_pos (by omega), if_neg (by omega), one_mul]

theorem carryStep_carries_around (x : Elem) {i : Fin 16} (h : i.val = 15) :
    (carryStep x i)[0] = wrap64 (x[0].toInt + 38 * (x[i].toInt / 65536)) := by
  rw [carryStep_getElem x i (by decide), if_neg (by omega), if_pos (by omega), if_pos h]

theorem carryStep_keeps (x : Elem) {i : Fin 16} {k : Nat} (hk : k < 16) (h : k ≠ i.val) (h' : k ≠ (i.val + 1) % 16) :
    (carryStep x i)[k] = x[k] := by
  rw [carryStep_getElem x i hk, if_neg h, if_neg h']

/-- CARRY's first n steps. -/
def carryUpTo (x : Elem) : Nat → Elem
  | 0 => x
  | n + 1 => carryStep (carryUpTo x n) (Fin.ofNat 16 n)

theorem carry_eq_carryUpTo (x : Elem) : carry x = carryUpTo x 16 := rfl

/-- After n steps the limbs below n are reduced, limb n has taken its carry, and the others are as they were. -/
theorem carryUpTo_getElem (x : Elem) {n : Nat} (hn : n < 16) {k : Nat} (hk : k < 16) :
    (carryUpTo x n)[k] =
      if k < n then wrap64 ((limbInt x k + carryIn x k) % 65536)
      else if k = n then wrap64 (limbInt x k + carryIn x k) else x[k] := by
  induction n generalizing k with
  | zero =>
    rw [carryUpTo, if_neg (Nat.not_lt_zero k)]
    split
    · subst k; rw [carryIn, add_zero, limbInt_of_lt x hk, wrap64_of_toInt]
    · rfl
  | succ n ih =>
    have index : (Fin.ofNat 16 n).val = n := Nat.mod_eq_of_lt (by omega)
    have before := ih (by omega) hk
    obtain h | rfl | rfl | h : k < n ∨ k = n ∨ k = n + 1 ∨ n + 1 < k := by omega
    · rw [carryUpTo, carryStep_keeps _ hk (by omega) (by omega), before, if_pos h, if_pos (by omega)]
    · rw [carryUpTo, carryStep_reduces _ hk index.symm, before, if_neg (by omega), if_pos rfl, if_pos (by omega),
        wrap64_toInt_mod]
    · have current := ih (by omega) (show n < 16 by omega)
      rw [if_neg (lt_irrefl n), if_pos rfl] at current
      rw [if_neg (by omega), if_neg (by omega)] at before
      rw [carryUpTo, carryStep_carries _ hk (by rw [index]), before, if_neg (lt_irrefl _), if_pos rfl, Fin.getElem_fin]
      simp only [index]
      rw [current, carryIn, limbInt_of_lt x hk]
    · rw [carryUpTo, carryStep_keeps _ hk (by omega) (by omega), before, if_neg (by omega), if_neg (by omega),
        if_neg (by omega), if_neg (by omega)]

theorem carryIn_bounds (x : Elem) (i : Nat) : -2 ^ 47 ≤ carryIn x i ∧ carryIn x i < 2 ^ 47 := by
  cases i with
  | zero => rw [carryIn]; omega
  | succ i =>
    have := toInt_fitsLimb (wrap64 (limbInt x i + carryIn x i))
    unfold FitsLimb at this
    rw [carryIn]; omega

/-- The limbs of CARRY's result, for any input: the low 16 bits, and 38 times the last carry in limb 0, which never
wraps there. -/
theorem limbInt_carry (x : Elem) {k : Nat} (hk : k < 16) :
    limbInt (carry x) k = (limbInt x k + carryIn x k) % 65536 + if k = 0 then 38 * carryIn x 16 else 0 := by
  have before : k < 15 → (carryUpTo x 15)[k].toInt = (limbInt x k + carryIn x k) % 65536 := fun h => by
    rw [carryUpTo_getElem x (by decide) hk, if_pos h, wrap64_toInt_of_range (by omega) (by omega)]
  have last : (carryUpTo x 15)[15] = wrap64 (limbInt x 15 + carryIn x 15) :=
    carryUpTo_getElem x (by decide) (by decide)
  have step : carry x = carryStep (carryUpTo x 15) 15 := carry_eq_carryUpTo x
  rw [limbInt_of_lt _ hk, step]
  obtain rfl | rfl | ⟨h0, h15⟩ : k = 0 ∨ k = 15 ∨ 0 < k ∧ k < 15 := by omega
  · have carryOut : (carryUpTo x 15)[(15 : Fin 16)].toInt / 65536 = carryIn x 16 := by rw [carryIn, ← last]; rfl
    have := carryIn_bounds x 16
    rw [carryStep_carries_around _ rfl, carryOut, before (by decide), if_pos rfl,
      wrap64_toInt_of_range (by omega) (by omega)]
  · rw [carryStep_reduces _ hk rfl, last, wrap64_toInt_mod, wrap64_toInt_of_range (by omega) (by omega),
      if_neg (by decide), add_zero]
  · rw [carryStep_keeps (i := 15) _ hk h15.ne h0.ne', before h15, if_neg h0.ne', add_zero]

/-! ### The ranges of limbs (R132) -/

theorem limbInt_carry_range (x : Elem) {k : Nat} (h0 : 0 < k) (hk : k < 16) :
    0 ≤ limbInt (carry x) k ∧ limbInt (carry x) k ≤ 65535 := by
  rw [limbInt_carry x hk, if_neg h0.ne']; omega

theorem limbInt_carry_zero_range (x : Elem) : -2 ^ 53 < limbInt (carry x) 0 ∧ limbInt (carry x) 0 < 2 ^ 53 := by
  have := carryIn_bounds x 16
  rw [limbInt_carry x (by decide), if_pos rfl]; omega

theorem carryIn_succ_of_fits {x : Elem} {i : Nat} (h : FitsLimb (limbInt x i + carryIn x i)) :
    carryIn x (i + 1) = (limbInt x i + carryIn x i) / 65536 := by
  rw [carryIn, wrap64_toInt_of_fitsLimb h]

/-- In a second CARRY the carries from limb 3 on are −1, 0 or 1: limb 0 gives one below 2^38, and each limb after it
shortens the carry by 16 bits. -/
theorem carryIn_carry_small (x : Elem) {n : Nat} (h : 4 ≤ n) (hn : n ≤ 16) :
    -1 ≤ carryIn (carry x) n ∧ carryIn (carry x) n ≤ 1 := by
  have next : ∀ i < 16, carryIn (carry x) (i + 1) = (limbInt (carry x) i + carryIn (carry x) i) / 65536 :=
    fun i hi => carryIn_succ_of_fits (by
      have := carryIn_bounds (carry x) i
      have := limbInt_carry_zero_range x
      unfold FitsLimb
      obtain rfl | h0 := Nat.eq_zero_or_pos i
      · omega
      · have := limbInt_carry_range x h0 hi
        omega)
  induction n, h using Nat.le_induction with
  | base =>
    have := limbInt_carry_zero_range x
    have := limbInt_carry_range x (k := 1) (by omega) (by omega)
    have := limbInt_carry_range x (k := 2) (by omega) (by omega)
    have := limbInt_carry_range x (k := 3) (by omega) (by omega)
    have start : carryIn (carry x) 0 = 0 := rfl
    rw [next 3 (by omega), next 2 (by omega), next 1 (by omega), next 0 (by omega), start]
    omega
  | succ n h ih =>
    have := ih (by omega)
    have := limbInt_carry_range x (k := n) (by omega) (by omega)
    rw [next n (by omega)]
    omega

theorem carry_carry_mulredRange (x : Elem) : MulredRange (carry (carry x)) := by
  intro i
  rw [← limbInt_fin]
  refine ⟨fun h => ?_, fun h => limbInt_carry_range _ (by omega) i.isLt⟩
  have := carryIn_carry_small x (n := 16) (by omega) le_rfl
  rw [h, limbInt_carry _ (by decide), if_pos rfl]
  omega

theorem mulred_mulredRange (a b : Elem) : MulredRange (mulred a b) := carry_carry_mulredRange _

/-- Every limb of a MULRED output has magnitude at most 65573. -/
theorem mulredRange_within {x : Elem} (h : MulredRange x) : Within x 65574 := by
  intro i
  obtain ⟨h0, h1⟩ := h i
  by_cases hi : i.val = 0
  · have := h0 hi; omega
  · have := h1 hi; omega

/-- A MULRED output may be an operand of the next MULRED (R134). -/
theorem mulredRange_within_envelope {x : Elem} (h : MulredRange x) : Within x (2 ^ 26) :=
  within_mono (mulredRange_within h) (by norm_num)

/-! ### CARRY without a wrap (R133) -/

theorem carryIn_eq_exactCarry {x : Elem} (h : NoWrap x) {i : Nat} (hi : i ≤ 16) : carryIn x i = exactCarry x i := by
  induction i with
  | zero => rfl
  | succ i ih =>
    have same := ih (by omega)
    rw [carryIn_succ_of_fits (same ▸ h.1 i (by omega)), same, exactCarry]

/-- The low 16 bits of n limbs, as their exact carries leave them, make up the value but for the carry out. -/
theorem sum_reduced_limbs (x : Elem) (n : Nat) :
    ∑ k ∈ Finset.range n, (limbInt x k + exactCarry x k) % 65536 * 65536 ^ k
      = ∑ k ∈ Finset.range n, limbInt x k * 65536 ^ k - exactCarry x n * 65536 ^ n := by
  induction n with
  | zero => simp [exactCarry]
  | succ n ih =>
    rw [Finset.sum_range_succ, Finset.sum_range_succ, ih, exactCarry, Int.emod_def]
    ring

theorem val_carry {x : Elem} (h : NoWrap x) : val (carry x) = val x - exactCarry x 16 * (2 ^ 256 - 38) := by
  have limbs : ∀ k ∈ Finset.range 16, limbInt (carry x) k * 65536 ^ k
      = (limbInt x k + exactCarry x k) % 65536 * 65536 ^ k + if k = 0 then 38 * exactCarry x 16 else 0 := by
    intro k hk
    have hk := Finset.mem_range.1 hk
    rw [limbInt_carry x hk, carryIn_eq_exactCarry h hk.le, carryIn_eq_exactCarry h le_rfl, add_mul]
    split
    · subst k; rw [pow_zero, mul_one, mul_one]
    · rw [zero_mul]
  rw [val_eq_sum_limbInt, Finset.sum_congr rfl limbs, Finset.sum_add_distrib, sum_reduced_limbs, ← val_eq_sum_limbInt,
    Finset.sum_ite_eq' (Finset.range 16) 0, if_pos (by decide)]
  ring

theorem val_carry_modEq {x : Elem} (h : NoWrap x) : val (carry x) ≡ val x [ZMOD fieldPrime] := by
  refine Int.modEq_iff_dvd.2 ⟨2 * exactCarry x 16, ?_⟩
  rw [val_carry h, fieldPrime_cast]
  ring

theorem noWrap_of_within {x : Elem} (h : Within x (2 ^ 62)) : NoWrap x := by
  have carries : ∀ i, -2 ^ 47 ≤ exactCarry x i ∧ exactCarry x i ≤ 2 ^ 47 := by
    intro i
    induction i with
    | zero => rw [exactCarry]; omega
    | succ i ih => have := abs_lt.1 (abs_limbInt_lt h i); rw [exactCarry]; omega
  refine ⟨fun i _ => ?_, ?_⟩
  · have := carries i; have := abs_lt.1 (abs_limbInt_lt h i); unfold FitsLimb; omega
  · have := carries 16; unfold FitsLimb; omega

theorem carry_within (x : Elem) : Within (carry x) (2 ^ 53) := by
  intro i
  rw [← limbInt_fin]
  obtain h0 | h0 := Nat.eq_zero_or_pos i.val
  · rw [h0]; exact limbInt_carry_zero_range x
  · have := limbInt_carry_range x h0 i.isLt; omega

theorem val_carry_carry_modEq {x : Elem} (h : Within x (2 ^ 62)) : val (carry (carry x)) ≡ val x [ZMOD fieldPrime] :=
  have second : NoWrap (carry x) := noWrap_of_within (within_mono (carry_within x) (by norm_num))
  (val_carry_modEq second).trans (val_carry_modEq (noWrap_of_within h))

/-! ### The columns of MULRED (R122, R134) -/

theorem column_eq_sum_limbInt (a b : Elem) (k : Nat) :
    column a b k = ∑ i ∈ Finset.range 16, if i ≤ k then limbInt a i * limbInt b (k - i) else 0 := by
  rw [column_eq_sum, Finset.sum_range]
  simp only [limbInt_fin]

theorem column_of_ge (a b : Elem) {k : Nat} (h : 31 ≤ k) : column a b k = 0 := by
  rw [column_eq_sum_limbInt]
  refine Finset.sum_eq_zero fun i hi => ?_
  have := Finset.mem_range.1 hi
  rw [limbInt_of_ge b (by omega), mul_zero, ite_self]

theorem folded_eq (a b : Elem) {k : Nat} (hk : k < 16) : folded a b k = column a b k + 38 * column a b (k + 16) := by
  unfold folded
  split
  · rfl
  · rw [column_of_ge a b (k := k + 16) (by omega), mul_zero, add_zero]

/-- b's limbs moved up by i places. -/
theorem sum_shifted_limbs (b : Elem) {i : Nat} (hi : i < 16) :
    ∑ k ∈ Finset.range 32, (if i ≤ k then limbInt b (k - i) * 65536 ^ k else 0) = 65536 ^ i * val b := by
  rw [show 32 = i + (16 + (16 - i)) by omega, Finset.sum_range_add, Finset.sum_range_add,
    Finset.sum_eq_zero fun k hk => if_neg (by have := Finset.mem_range.1 hk; omega),
    Finset.sum_eq_zero (s := Finset.range (16 - i)) fun k _ => by
      rw [if_pos (by omega), limbInt_of_ge b (by omega), zero_mul],
    val_eq_sum_limbInt, Finset.mul_sum, zero_add, add_zero]
  refine Finset.sum_congr rfl fun k _ => ?_
  rw [if_pos (Nat.le_add_right i k), Nat.add_sub_cancel_left, pow_add]
  ring

/-- The columns of the convolution make up the product of the values. -/
theorem sum_columns (a b : Elem) : ∑ k ∈ Finset.range 32, column a b k * 65536 ^ k = val a * val b := by
  simp only [column_eq_sum_limbInt, Finset.sum_mul]
  rw [Finset.sum_comm, val_eq_sum_limbInt a, Finset.sum_mul]
  refine Finset.sum_congr rfl fun i hi => ?_
  rw [mul_assoc, ← sum_shifted_limbs b (Finset.mem_range.1 hi), Finset.mul_sum]
  refine Finset.sum_congr rfl fun k _ => ?_
  split
  · rw [mul_assoc]
  · rw [zero_mul, mul_zero]

/-- The fold takes 2p times the upper columns off the product (R134). -/
theorem sum_folded (a b : Elem) :
    ∑ k ∈ Finset.range 16, folded a b k * 65536 ^ k
      = val a * val b - 2 * fieldPrime * ∑ k ∈ Finset.range 16, column a b (k + 16) * 65536 ^ k := by
  have upper : ∀ k, column a b (16 + k) * 65536 ^ (16 + k) = 2 ^ 256 * (column a b (k + 16) * 65536 ^ k) := by
    intro k
    rw [add_comm 16 k, pow_add]
    ring
  have fold : ∀ k ∈ Finset.range 16, folded a b k * 65536 ^ k
      = column a b k * 65536 ^ k + 38 * (column a b (k + 16) * 65536 ^ k) := by
    intro k hk
    rw [folded_eq a b (Finset.mem_range.1 hk)]
    ring
  rw [← sum_columns, Finset.sum_range_add _ 16 16, Finset.sum_congr rfl fold, Finset.sum_add_distrib, ← Finset.mul_sum]
  simp only [upper]
  rw [← Finset.mul_sum, fieldPrime_cast]
  ring

section
variable {a b : Elem} (ha : Within a (2 ^ 26)) (hb : Within b (2 ^ 26))
include ha hb

theorem abs_column_le (k : Nat) : |column a b k| ≤ 2 ^ 56 := by
  have term : ∀ i ∈ Finset.range 16, |if i ≤ k then limbInt a i * limbInt b (k - i) else 0| ≤ 2 ^ 26 * 2 ^ 26 := by
    intro i _
    split
    · rw [abs_mul]
      exact mul_le_mul (abs_limbInt_lt ha i).le (abs_limbInt_lt hb _).le (abs_nonneg _) (by norm_num)
    · norm_num
  calc |column a b k|
    _ ≤ ∑ i ∈ Finset.range 16, |if i ≤ k then limbInt a i * limbInt b (k - i) else 0| := by
      rw [column_eq_sum_limbInt]; exact Finset.abs_sum_le_sum_abs _ _
    _ ≤ (Finset.range 16).card • (2 ^ 26 * 2 ^ 26) := Finset.sum_le_card_nsmul _ _ _ term
    _ = 2 ^ 56 := by norm_num

theorem folded_bounds {k : Nat} (hk : k < 16) : -2 ^ 62 < folded a b k ∧ folded a b k < 2 ^ 62 := by
  have := abs_le.1 (abs_column_le ha hb k)
  have := abs_le.1 (abs_column_le ha hb (k + 16))
  rw [folded_eq a b hk]
  omega

/-- No folded column wraps (R134). -/
theorem limbInt_product_of_within {k : Nat} (hk : k < 16) : limbInt (product a b) k = folded a b k := by
  have := folded_bounds ha hb hk
  rw [limbInt_of_lt _ hk, product_getElem a b hk, wrap64_toInt_of_range (by omega) (by omega)]

theorem product_within : Within (product a b) (2 ^ 62) := fun i => by
  rw [← limbInt_fin, limbInt_product_of_within ha hb i.isLt]
  exact folded_bounds ha hb i.isLt

theorem val_product_modEq : val (product a b) ≡ val a * val b [ZMOD fieldPrime] := by
  refine Int.modEq_iff_dvd.2 ⟨2 * ∑ k ∈ Finset.range 16, column a b (k + 16) * 65536 ^ k, ?_⟩
  rw [val_eq_sum_limbInt (product a b), Finset.sum_congr rfl fun k hk =>
    congrArg (· * 65536 ^ k) (limbInt_product_of_within ha hb (Finset.mem_range.1 hk)), sum_folded]
  ring

/-- Inside the envelope MULRED represents the product (R134). -/
theorem val_mulred_modEq : val (mulred a b) ≡ val a * val b [ZMOD fieldPrime] :=
  (val_carry_carry_modEq (product_within ha hb)).trans (val_product_modEq ha hb)

theorem residue_mulred : residue (mulred a b) = residue a * residue b := by
  unfold residue
  rw [← Int.cast_mul, ZMod.intCast_eq_intCast_iff]
  exact val_mulred_modEq ha hb

end

/-! ### MULRED's columns in wrapping arithmetic (R122) -/

theorem wrap64_limbInt (x : Elem) (k : Nat) : wrap64 (limbInt x k) = limb x k := by
  unfold limbInt limb
  split
  · exact wrap64_of_toInt _
  · rfl

theorem wrap64_column (a b : Elem) (k : Nat) : wrap64 (column a b k) = wrapColumn a b k := by
  rw [column, wrapColumn, wrap64_list_sum, List.map_map, ← List.map_coe_finRange_eq_range, List.map_map]
  congr 2
  funext i
  simp only [Function.comp_apply]
  split
  · rw [wrap64_mul, wrap64_limbInt, ← limbInt_fin, wrap64_limbInt]
  · rfl

theorem product_eq_wrapColumns (a b : Elem) :
    product a b = Vector.ofFn fun k : Fin 16 =>
      if k.val < 15 then wrapColumn a b k + 38 * wrapColumn a b (k + 16) else wrapColumn a b k := by
  refine Vector.ext fun k hk => ?_
  rw [product_getElem a b hk, Vector.getElem_ofFn, folded]
  split
  · rw [wrap64_add, wrap64_mul, wrap64_column, wrap64_column]; rfl
  · exact wrap64_column a b k

/-! ### MULRED of a zero operand (R128) -/

@[simp] theorem limbInt_limbs_zero (k : Nat) : limbInt (limbs 0) k = 0 := by
  by_cases hk : k < 16
  · rw [limbInt_of_lt _ hk, limbs_toInt 0 hk, Nat.zero_div]; rfl
  · exact limbInt_of_ge _ (by omega)

theorem mulred_of_columns_zero {a b : Elem} (h : ∀ k, column a b k = 0) : mulred a b = limbs 0 := by
  have zero : product a b = limbs 0 := Vector.ext fun k hk => by
    rw [product_getElem a b hk, folded_eq a b hk, h, h, limbs_getElem 0 hk, Nat.zero_div]; rfl
  have carried : carry (limbs 0) = limbs 0 := by decide +kernel
  rw [mulred, zero, carried, carried]

theorem mulred_zero_left (b : Elem) : mulred (limbs 0) b = limbs 0 := mulred_of_columns_zero fun k => by
  simp [column_eq_sum_limbInt]

theorem mulred_zero_right (a : Elem) : mulred a (limbs 0) = limbs 0 := mulred_of_columns_zero fun k => by
  simp [column_eq_sum_limbInt]

/-! ### INV (R123, R137) -/

theorem invStep_eq (a c : Elem) (k : Nat) :
    invStep a c k = if k = 2 ∨ k = 4 then mulred c c else mulred (mulred c c) a := by
  simp only [invStep, ← not_or, ite_not]

theorem invStep_mulredRange (a c : Elem) (k : Nat) : MulredRange (invStep a c k) := by
  unfold invStep
  split
  · exact mulred_mulredRange _ _
  · exact mulred_mulredRange _ _

theorem invLoop_mulredRange (a : Elem) (n : Nat) (c : Elem) : MulredRange (invLoop a (n + 1) c) := by
  induction n generalizing c with
  | zero => exact invStep_mulredRange a c 0
  | succ n ih => exact ih (invStep a c (n + 1))

theorem inverse_mulredRange (a : Elem) : MulredRange (inverse a) := invLoop_mulredRange a 253 a

/-- The elements a run of INV's loop passes through. -/
theorem exists_invLoop_chain (a : Elem) (n : Nat) (c : Elem) :
    ∃ f : Nat → Elem, f n = c ∧ f 0 = invLoop a n c ∧ ∀ k < n, f k = invStep a (f (k + 1)) k := by
  induction n generalizing c with
  | zero => exact ⟨fun _ => c, rfl, rfl, fun k hk => absurd hk (Nat.not_lt_zero k)⟩
  | succ n ih =>
    obtain ⟨f, hn, h0, hstep⟩ := ih (invStep a c n)
    refine ⟨Function.update f (n + 1) c, Function.update_self .., ?_, fun k hk => ?_⟩
    · rw [Function.update_of_ne (by omega), h0, invLoop_succ]
    · rw [Function.update_of_ne hk.ne]
      obtain rfl | hk : k = n ∨ k < n := by omega
      · rw [Function.update_self, hn]
      · rw [Function.update_of_ne (by omega), hstep k hk]

/-- The exponent INV's steps n − 1 down to 0 take e to: each doubles it, and adds 1 unless k is 2 or 4 (R137). -/
def invExponent : Nat → Nat → Nat
  | 0, e => e
  | k + 1, e => invExponent k (2 * e + if k ≠ 2 ∧ k ≠ 4 then 1 else 0)

theorem invExponent_from_one : invExponent 254 1 = fieldPrime - 2 := by decide +kernel

section
variable {a : Elem} (ha : Within a (2 ^ 26))
include ha

theorem residue_invStep {c : Elem} (hc : Within c (2 ^ 26)) {e : Nat} (he : residue c = residue a ^ e) (k : Nat) :
    residue (invStep a c k) = residue a ^ (2 * e + if k ≠ 2 ∧ k ≠ 4 then 1 else 0) := by
  have square : residue (mulred c c) = residue a ^ (2 * e) := by rw [residue_mulred hc hc, he, ← pow_add, two_mul]
  unfold invStep
  split
  · rw [residue_mulred (mulredRange_within_envelope (mulred_mulredRange c c)) ha, square, pow_succ]
  · rw [square, add_zero]

theorem residue_invLoop (n : Nat) {c : Elem} (hc : Within c (2 ^ 26)) {e : Nat} (he : residue c = residue a ^ e) :
    residue (invLoop a n c) = residue a ^ invExponent n e := by
  induction n generalizing c e with
  | zero => exact he
  | succ n ih => exact ih (mulredRange_within_envelope (invStep_mulredRange a c n)) (residue_invStep ha hc he n)

theorem residue_inverse : residue (inverse a) = residue a ^ (fieldPrime - 2) := by
  rw [inverse, residue_invLoop ha 254 ha (pow_one _).symm, invExponent_from_one]

end

/-! ### Signed sums of MULRED outputs (R135) -/

theorem addLimbs_within {x y : Elem} {b c : Int} (hx : Within x b) (hy : Within y c) (h : b + c ≤ 2 ^ 63) :
    Within (addLimbs x y) (b + c - 1) := fun i => by
  have := hx i
  have := hy i
  rw [addLimbs_toInt (by unfold FitsLimb; omega)]
  omega

theorem subLimbs_within {x y : Elem} {b c : Int} (hx : Within x b) (hy : Within y c) (h : b + c ≤ 2 ^ 63) :
    Within (subLimbs x y) (b + c - 1) := fun i => by
  have := hx i
  have := hy i
  rw [subLimbs_toInt (by unfold FitsLimb; omega)]
  omega

theorem signedSum_concat (l : List (Bool × Elem × Elem)) (plus : Bool) (a b : Elem) :
    signedSum (l ++ [(plus, a, b)])
      = if plus then addLimbs (signedSum l) (mulred a b) else subLimbs (signedSum l) (mulred a b) := by
  rw [signedSum, List.foldl_concat]; rfl

theorem signedSum_within {l : List (Bool × Elem × Elem)} (h : l.length ≤ 1000) :
    Within (signedSum l) (l.length * 65573 + 1) := by
  induction l using List.reverseRecOn with
  | nil => intro i; rw [← limbInt_fin]; exact limbInt_limbs_zero i ▸ ⟨by decide, by decide⟩
  | append_singleton l q ih =>
    obtain ⟨plus, a, b⟩ := q
    rw [List.length_append, List.length_singleton] at h
    have sum := ih (by omega)
    have term := mulredRange_within (mulred_mulredRange a b)
    rw [signedSum_concat, List.length_append, List.length_singleton]
    split
    · exact within_mono (addLimbs_within sum term (by omega)) (by push_cast; omega)
    · exact within_mono (subLimbs_within sum term (by omega)) (by push_cast; omega)

/-! ### What a field command writes (R124) -/

/-- A command that writes v to Fd and completes changes no other register. -/
theorem exec_writes_one {i : Instr} {s : State} {d : FReg} {v : Elem} (h : exec i s = .next (s.setF d v).complete) :
    ∃ t, exec i s = .next t ∧ t.getF d = v ∧ WroteOnly [d] s t ∧ Completed s t := by
  refine ⟨_, h, State.getF_setF_same s d v, ⟨fun r hr => ?_, rfl, rfl⟩, by constructor <;> simp⟩
  exact State.getF_setF_other s v fun e => hr (List.mem_singleton.2 e)

/-- FCSWAP writes Fa and Fb exchanged or as they were (R136). -/
theorem exec_fcswap_eq (a b : FReg) (flag : Bool) (s : State) :
    exec (.fcswap a b flag) s = .next ((s.setF a (if flag then s.getF b else s.getF a)).setF b
      (if flag then s.getF a else s.getF b)).complete := by
  rw [exec_fcswap, cswap_eq]
  cases flag <;> rfl

theorem State.setF_getF_self (s : State) (r : FReg) : s.setF r (s.getF r) = s := by
  simp [State.setF, State.getF]

/-! ### The obligations of 40_field_arith.md -/

/-- Settles O11: limb by limb, and by value when no limb leaves its range. -/
theorem faddAddsLimbs : Obligations.FaddAddsLimbs := by
  refine ⟨fun d s1 s2 s => ?_, commandWordLayout.1, fun s => ?_⟩
  · obtain ⟨t, ht, hd, wrote, completed⟩ := exec_writes_one (exec_fadd d s1 s2 s)
    refine ⟨t, ht, fun i => ?_, fun fits => ?_, wrote, completed⟩
    · rw [hd]; exact addLimbs_getElem _ _ i.isLt
    · rw [hd, val_addLimbs fits]
  · obtain ⟨t, ht, hd, -⟩ := exec_writes_one (exec_fadd 0 .kone .knine s)
    exact ⟨t, ht, hd.trans (by rw [State.opnd_kone, State.opnd_knine]; decide)⟩

/-- Settles O12: limb by limb, and by value when no limb leaves its range. -/
theorem fsubSubtractsLimbs : Obligations.FsubSubtractsLimbs := by
  refine ⟨fun d s1 s2 s => ?_, commandWordLayout.2.1, fun s => ?_, fun s => ?_⟩
  · obtain ⟨t, ht, hd, wrote, completed⟩ := exec_writes_one (exec_fsub d s1 s2 s)
    refine ⟨t, ht, fun i => ?_, fun fits => ?_, fun same => ?_, wrote, completed⟩
    · rw [hd]; exact subLimbs_getElem _ _ i.isLt
    · rw [hd, val_subLimbs fits]
    · rw [hd, same, subLimbs_self]
  · obtain ⟨t, ht, hd, -⟩ := exec_writes_one (exec_fsub 0 .kone .knine s)
    refine ⟨t, ht, ?_⟩
    rw [hd, State.opnd_kone, State.opnd_knine]
    decide
  · obtain ⟨t, ht, hd, -⟩ := exec_writes_one (exec_fsub 0 .kzero .kone s)
    refine ⟨t, ht, ?_⟩
    rw [hd, State.opnd_kzero, State.opnd_kone]
    decide

/-- Settles O13: CARRY's limbs are the low 16 bits after the carry in, and limb 0 takes the last carry 38-fold. -/
theorem fcarryPropagatesOnce : Obligations.FcarryPropagatesOnce := by
  intro d s
  obtain ⟨t, ht, hd, wrote, completed⟩ := exec_writes_one (exec_fcarry d s)
  refine ⟨t, ht, fun i hi => ?_, ?_, wrote, completed⟩
  · rw [hd, ← limbInt_fin, limbInt_carry _ i.isLt, if_neg (Fin.val_ne_zero_iff.2 hi), add_zero]
  · have zero := limbInt_carry (s.getF d) (k := 0) (by decide)
    rw [if_pos rfl, limbInt_of_lt _ (by decide), carryIn, add_zero] at zero
    rw [hd, ← zero, wrap64_of_toInt]

/-- Settles O14, from the range of MULRED and its value at a zero operand. -/
theorem fmulMultipliesAndReduces : Obligations.FmulMultipliesAndReduces := by
  refine ⟨fun d s1 s2 s => ?_, fun s => ?_⟩
  · obtain ⟨t, ht, hd, wrote, completed⟩ := exec_writes_one (exec_fmul d s1 s2 s)
    refine ⟨t, ht, hd, hd ▸ mulred_mulredRange _ _, fun zero => ?_, wrote, completed⟩
    rw [hd]
    obtain h | h := zero
    · rw [h, mulred_zero_left]
    · rw [h, mulred_zero_right]
  · obtain ⟨t, ht, hd, -⟩ := exec_writes_one (exec_fmul 0 .ka24 .knine s)
    exact ⟨t, ht, hd.trans (by rw [State.opnd_ka24, State.opnd_knine]; decide +kernel)⟩

/-- Settles O15: a wrap respects sums and products, so the wrapped columns are the columns wrapped. -/
theorem mulredInWrappingArithmetic : Obligations.MulredInWrappingArithmetic := fun a b => by
  rw [mulred, product_eq_wrapColumns]

/-- Settles O16, from `cswap_eq`. -/
theorem fcswapExchangesOrKeeps : Obligations.FcswapExchangesOrKeeps := by
  intro a b flag s
  refine ⟨_, exec_fcswap_eq a b flag s, ?_, ?_, fun hab => ?_, ⟨fun r hr => ?_, rfl, rfl⟩, by constructor <;> simp⟩
  · rw [State.getF_complete, State.getF_setF, State.getF_setF_same]
    split
    · subst b; cases flag <;> rfl
    · rfl
  · rw [State.getF_complete, State.getF_setF_same]
  · subst b
    rw [ite_self, State.setF_getF_self, State.setF_getF_self, State.complete_f]
  · rw [List.mem_pair, not_or] at hr
    rw [State.getF_complete, State.getF_setF_other _ _ hr.2, State.getF_setF_other _ _ hr.1]

/-- Settles O17: the chain is the run of INV's loop. -/
theorem finvRunsFermatChain : Obligations.FinvRunsFermatChain := by
  intro d s1 s
  obtain ⟨t, ht, hd, wrote, completed⟩ := exec_writes_one (exec_finv d s1 s)
  obtain ⟨c, hstart, hend, hstep⟩ := exists_invLoop_chain (s.opnd s1) 254 (s.opnd s1)
  refine ⟨t, ht, ⟨c, hstart, hd.trans hend.symm, fun k hk => ?_⟩, hd ▸ inverse_mulredRange _, wrote, completed⟩
  rw [hstep k hk, invStep_eq]

/-- Settles O18, from the ranges of one CARRY and of two. -/
theorem carryAndMulredRanges : Obligations.CarryAndMulredRanges := by
  refine ⟨fun x i hi => ?_, fun x => ?_, mulred_mulredRange, inverse_mulredRange⟩
  · rw [← limbInt_fin]
    exact limbInt_carry_range x (Fin.pos_iff_ne_zero.2 hi) i.isLt
  · exact limbInt_of_lt (carry x) (k := 0) (by decide) ▸ limbInt_carry_zero_range x

/-- Settles O19: the carries telescope, and 2^256 − 38 = 2p. -/
theorem carryKeepsResidue : Obligations.CarryKeepsResidue := fun x h => by
  refine ⟨val_carry h, ?_, val_carry_modEq h⟩
  rw [val_carry h, fieldPrime_cast]
  ring

/-- Settles O20: the columns make up the product, the fold takes a multiple of p off, and nothing wraps. -/
theorem mulredRepresentsProduct : Obligations.MulredRepresentsProduct := by
  refine ⟨fun a b ha hb => ⟨fun k => ?_, val_mulred_modEq ha hb⟩, by decide +kernel⟩
  rw [← limbInt_fin]
  exact limbInt_product_of_within ha hb k.isLt

/-- Settles O21: exact without a wrap, and each MULRED output adds at most 65573 to a limb's magnitude. -/
theorem sumEnvelopes : Obligations.SumEnvelopes := by
  refine ⟨fun x y h => ⟨fun i => addLimbs_toInt (h i), val_addLimbs h⟩,
    fun x y h => ⟨fun i => subLimbs_toInt (h i), val_subLimbs h⟩, fun l hl => ?_⟩
  have sum := signedSum_within hl
  exact ⟨within_mono sum (by omega), within_mono sum (by omega)⟩

/-- Settles O22: each step of INV doubles the exponent and adds 1 or 0, which makes p − 2. -/
theorem inverseIsFermatPower : Obligations.InverseIsFermatPower := fun _ ha => residue_inverse ha

end Sys2Proof.Machine
end

section
/-! PROOFS of the family 41_codec.md: the digits of a number in bytes and in limbs, what FUNPACK and FPACK write, and the
branch-free mechanism of R172 on canonical limbs. -/

namespace Sys2Proof.Machine

open Sys2Proof.Claims

/-! ### The digits of a number (00_scope.md R10, R14) -/

section
variable {B n : Nat} {a : Fin n → Nat} (ha : ∀ k, a k < B)
include ha

theorem sum_digits_lt : ∑ k, a k * B ^ k.val < B ^ n := (finFunctionFinEquiv fun k => (⟨a k, ha k⟩ : Fin B)).isLt

theorem digit_of_sum_digits (j : Fin n) : (∑ k, a k * B ^ k.val) / B ^ j.val % B = a j :=
  congrArg (fun g => (g j).val) (finFunctionFinEquiv.symm_apply_apply fun k => (⟨a k, ha k⟩ : Fin B))

end

theorem byte_pow (k : Nat) : 256 ^ k = 2 ^ (8 * k) := by rw [pow_mul]; rfl

theorem leNat_lt (b : ByteReg) : leNat b < 2 ^ 256 :=
  leNat_eq_sum b ▸ sum_digits_lt fun k => b[k].isLt

theorem bytesOf_toNat (v : Nat) {k : Nat} (h : k < 32) : (bytesOf v)[k].toNat = v / 256 ^ k % 256 := by
  rw [bytesOf_getElem v h, BitVec.toNat_ofNat]

theorem bytesOf_leNat (b : ByteReg) : bytesOf (leNat b) = b :=
  Vector.ext fun k hk => BitVec.eq_of_toNat_eq <| by
    rw [bytesOf_toNat _ hk, leNat_eq_sum]
    exact digit_of_sum_digits (fun k : Fin 32 => b[k].isLt) ⟨k, hk⟩

theorem leNat_bytesOf {v : Nat} (h : v < 2 ^ 256) : leNat (bytesOf v) = v := by
  have digits : leNat (bytesOf v) = ∑ k ∈ Finset.range 32, v / 256 ^ k % 256 * 256 ^ k := by
    rw [leNat_eq_sum, Finset.sum_range]
    exact Finset.sum_congr rfl fun k _ => by rw [Fin.getElem_fin, bytesOf_toNat v k.isLt]
  rw [digits, sum_digits_eq_mod]
  exact Nat.mod_eq_of_lt h

/-- Limbs in [0, 65535] are the base-2^16 digits of a number. -/
theorem exists_eq_limbs {t : Elem} (h : ∀ i < 16, 0 ≤ limbInt t i ∧ limbInt t i ≤ 65535) :
    ∃ v < 2 ^ 256, t = limbs v := by
  have small : ∀ i : Fin 16, t[i].toNat < 2 ^ 16 := fun i => by
    have := h i i.isLt
    rw [limbInt_fin, BitVec.toInt_eq_toNat_cond] at this
    omega
  refine ⟨_, sum_digits_lt (B := 2 ^ 16) small, Vector.ext fun i hi => ?_⟩
  rw [limbs_getElem _ hi, pow_mul, digit_of_sum_digits small ⟨i, hi⟩, BitVec.ofNat_toNat, BitVec.setWidth_eq,
    Fin.getElem_fin]

/-! ### FUNPACK (R170) -/

theorem unpack_toInt (b : ByteReg) (i : Fin 16) :
    (unpack b)[i].toInt = b[2 * i.val].toNat + 256 * b[2 * i.val + 1].toNat := by
  have := b[2 * i.val].isLt
  have := b[2 * i.val + 1].isLt
  have digit : (unpack b)[i].toNat = b[2 * i.val].toNat + 256 * b[2 * i.val + 1].toNat := by
    rw [Fin.getElem_fin, unpack_getElem b i.isLt, BitVec.toNat_ofNat, Nat.mod_eq_of_lt (by omega)]
  rw [BitVec.toInt_eq_toNat_of_lt (by omega), digit]
  push_cast
  rfl

/-- A base-2^16 digit is two bytes. -/
theorem unpack_bytesOf (v : Nat) : unpack (bytesOf v) = limbs v := by
  refine Vector.ext fun i hi => ?_
  have base : 256 ^ (2 * i) = 2 ^ (16 * i) := by
    rw [byte_pow]
    congr 1
    omega
  rw [unpack_getElem _ hi, limbs_getElem _ hi, bytesOf_toNat, bytesOf_toNat, pow_succ, ← Nat.div_div_eq_div_mul, base]
  congr 1
  omega

theorem unpack_eq_limbs (b : ByteReg) : unpack b = limbs (leNat b) := by
  rw [← unpack_bytesOf, bytesOf_leNat]

theorem val_unpack (b : ByteReg) : val (unpack b) = leNat b := by
  rw [unpack_eq_limbs, val_limbs (leNat_lt b)]

/-! ### FPACK (R171, R173) -/

theorem fieldPrime_eq : fieldPrime = 2 ^ 255 - 19 := rfl

theorem emod_fieldPrime_bounds (n : Int) : 0 ≤ n % fieldPrime ∧ n % fieldPrime < fieldPrime :=
  ⟨Int.emod_nonneg n (by decide), Int.emod_lt_of_pos n (by decide)⟩

theorem pack_toNat (x : Elem) {k : Nat} (h : k < 32) :
    (pack x)[k].toNat = (val x % (fieldPrime : Int)).toNat / 2 ^ (8 * k) % 256 := by
  rw [pack, bytesOf_toNat _ h, byte_pow]

theorem leNat_pack (x : Elem) : (leNat (pack x) : Int) = val x % fieldPrime := by
  obtain ⟨nonneg, lt⟩ := emod_fieldPrime_bounds (val x)
  rw [fieldPrime_cast] at lt
  rw [pack, leNat_bytesOf (by rw [fieldPrime_cast]; omega), Int.toNat_of_nonneg nonneg]

/-- A residue is below 2^255. -/
theorem pack_top_bit (x : Elem) : (pack x)[31].getLsbD 7 = false := by
  obtain ⟨nonneg, lt⟩ := emod_fieldPrime_bounds (val x)
  have byte := pack_toNat x (k := 31) (by decide)
  rw [fieldPrime_cast] at byte lt
  exact Nat.testBit_lt_two_pow (by omega)

theorem pack_of_modEq {x : Elem} {v : Nat} (h : val x ≡ v [ZMOD fieldPrime]) : pack x = bytesOf (v % fieldPrime) := by
  rw [pack, h, ← Int.natCast_mod, Int.toNat_natCast]

theorem pack_unpack (b : ByteReg) : pack (unpack b) = bytesOf (leNat b % fieldPrime) :=
  pack_of_modEq (by rw [val_unpack])

/-- FPACK changes no register but OUT. -/
theorem exec_fpack_writes_out (s1 : Src) (s : State) :
    ∃ t, exec (.fpack s1) s = .next t ∧ t.out = pack (s.opnd s1) ∧ t.f = s.f ∧ t.lcount = s.lcount ∧ Completed s t :=
  ⟨_, exec_fpack s1 s, State.complete_out _, State.complete_f _, State.complete_lcount _, by constructor <;> simp⟩

/-! ### Three CARRY passes (R172) -/

/-- Every carry of a third CARRY is 0 or the carry out of limb 0. -/
theorem carryIn_between_of_mulredRange {y : Elem} (h : MulredRange y) {n : Nat} (h0 : 0 < n) (hn : n ≤ 16) :
    min 0 (limbInt y 0 / 65536) ≤ carryIn y n ∧ carryIn y n ≤ max 0 (limbInt y 0 / 65536) := by
  have first : -38 ≤ limbInt y 0 ∧ limbInt y 0 ≤ 65573 := (h 0).1 rfl
  induction n, h0 using Nat.le_induction with
  | base =>
    have start : carryIn y 0 = 0 := rfl
    rw [carryIn_succ_of_fits (by unfold FitsLimb; omega), start]
    omega
  | succ n h0 ih =>
    have before := ih (by omega)
    have digit : 0 ≤ limbInt y n ∧ limbInt y n ≤ 65535 := limbInt_fin y ⟨n, hn⟩ ▸ (h ⟨n, hn⟩).2 (Nat.ne_of_gt h0)
    rw [carryIn_succ_of_fits (by unfold FitsLimb; omega)]
    omega

/-- A carry cascade through limb 15 moves limb 0 back into [0, 65535]. -/
theorem limbInt_carry_of_mulredRange {y : Elem} (h : MulredRange y) {k : Nat} (hk : k < 16) :
    0 ≤ limbInt (carry y) k ∧ limbInt (carry y) k ≤ 65535 := by
  obtain rfl | h0 := Nat.eq_zero_or_pos k
  · have first : -38 ≤ limbInt y 0 ∧ limbInt y 0 ≤ 65573 := (h 0).1 rfl
    have last := carryIn_between_of_mulredRange h (n := 16) (by decide) le_rfl
    rw [limbInt_carry y hk, if_pos rfl, carryIn]
    omega
  · exact limbInt_carry_range y h0 hk

/-- Three passes leave the base-2^16 digits of a number congruent to the value. -/
theorem exists_carry_carry_carry_eq_limbs {x : Elem} (h : Within x (2 ^ 62)) :
    ∃ v < 2 ^ 256, carry (carry (carry x)) = limbs v ∧ val x ≡ v [ZMOD fieldPrime] := by
  have range := carry_carry_mulredRange x
  obtain ⟨v, hv, ht⟩ := exists_eq_limbs fun i hi => limbInt_carry_of_mulredRange range hi
  have third : NoWrap (carry (carry x)) := noWrap_of_within (within_mono (mulredRange_within range) (by norm_num))
  have value := (val_carry_modEq third).trans (val_carry_carry_modEq h)
  rw [ht, val_limbs hv] at value
  exact ⟨v, hv, ht, value.symm⟩

/-! ### One conditional subtraction of p (R172) -/

/-- Digit n of v. -/
theorem limbInt_limbs (v : Nat) {n : Nat} (hn : n < 16) : limbInt (limbs v) n = (v : Int) / 2 ^ (16 * n) % 65536 := by
  rw [limbInt_of_lt _ hn, limbs_toInt v hn]
  push_cast
  rfl

theorem pLimb_eq_digit {n : Nat} (hn : n < 16) : pLimb n = (fieldPrime : Int) / 2 ^ (16 * n) % 65536 := by
  have all : ∀ i : Fin 16, pLimb i = (fieldPrime : Int) / 2 ^ (16 * i.val) % 65536 := by decide
  exact all ⟨n, hn⟩

theorem packBorrow_bounds (t : Elem) (n : Nat) : 0 ≤ packBorrow t n ∧ packBorrow t n ≤ 1 := by
  cases n with
  | zero => simp [packBorrow]
  | succ n => rw [packBorrow]; omega

theorem ediv_two_pow_limb_succ (z : Int) (n : Nat) : z / 2 ^ (16 * (n + 1)) = z / 2 ^ (16 * n) / 65536 := by
  rw [Int.ediv_ediv_of_nonneg (by positivity), Nat.mul_succ, pow_add]
  rfl

/-- The borrow into limb n is what the quotients of v and p by 2^(16n) are off from the quotient of v − p. -/
theorem packBorrow_limbs (v : Nat) {n : Nat} (hn : n ≤ 16) :
    packBorrow (limbs v) n
      = (v : Int) / 2 ^ (16 * n) - fieldPrime / 2 ^ (16 * n) - ((v : Int) - fieldPrime) / 2 ^ (16 * n) := by
  induction n with
  | zero => simp [packBorrow]
  | succ n ih =>
    have before := ih (by omega)
    have bounds := packBorrow_bounds (limbs v) n
    rw [packBorrow, asr_sixteen, limbInt_limbs v hn, pLimb_eq_digit hn, ediv_two_pow_limb_succ, ediv_two_pow_limb_succ,
      ediv_two_pow_limb_succ]
    omega

theorem packBorrow_limbs_last {v : Nat} (h : v < 2 ^ 256) : packBorrow (limbs v) 16 = if v < fieldPrime then 1 else 0 := by
  have prime := fieldPrime_cast
  rw [packBorrow_limbs v le_rfl]
  split <;> omega

/-- Without a borrow at the end, the limbs of the difference are the digits of v − p. -/
theorem packMinusP_limbs {v : Nat} (h : v < 2 ^ 256) (hp : fieldPrime ≤ v) :
    packMinusP (limbs v) = limbs (v - fieldPrime) := by
  refine Vector.ext fun i hi => ?_
  have borrow := packBorrow_limbs v hi.le
  have digit := limbInt_limbs (v - fieldPrime) hi
  rw [Nat.cast_sub hp] at digit
  rw [← wrap64_of_toInt (limbs (v - fieldPrime))[i], ← limbInt_of_lt _ hi, digit]
  simp only [packMinusP, Vector.getElem_ofFn, Fin.getElem_fin]
  rw [← limbInt_of_lt _ hi, limbInt_limbs v hi, pLimb_eq_digit hi]
  split
  · exact congrArg wrap64 (by omega)
  · obtain rfl : i = 15 := by omega
    have prime := fieldPrime_cast
    exact congrArg wrap64 (by omega)

theorem packRound_limbs {v : Nat} (h : v < 2 ^ 256) :
    packRound (limbs v) = limbs (if v < fieldPrime then v else v - fieldPrime) := by
  rw [packRound, cswap_eq, packBorrow_limbs_last h]
  split
  · rfl
  · exact packMinusP_limbs h (by omega)

/-- 2^256 < 3p, so two rounds reduce. -/
theorem packRound_packRound_limbs {v : Nat} (h : v < 2 ^ 256) :
    packRound (packRound (limbs v)) = limbs (v % fieldPrime) := by
  rw [packRound_limbs h, packRound_limbs (by split <;> omega)]
  exact congrArg limbs (by rw [fieldPrime_eq]; split_ifs <;> omega)

/-- The two bytes of each limb are the bytes of the number. -/
theorem limbs_extract_byte (v : Nat) {k : Nat} (hk : k < 32) :
    (limbs v)[k / 2].extractLsb' (8 * (k % 2)) 8 = (bytesOf v)[k] := by
  refine BitVec.eq_of_toNat_eq ?_
  rw [BitVec.extractLsb'_toNat, limbs_getElem v (by omega), BitVec.toNat_ofNat, bytesOf_toNat v hk,
    Nat.shiftRight_eq_div_pow]
  have base : 256 ^ k = 2 ^ (16 * (k / 2)) * 2 ^ (8 * (k % 2)) := by
    rw [byte_pow, ← pow_add]
    congr 1
    omega
  rw [base, ← Nat.div_div_eq_div_mul]
  obtain h | h := Nat.mod_two_eq_zero_or_one k
  · rw [h]; omega
  · rw [h]; omega

/-! ### The obligations of 41_codec.md -/

/-- Settles O23: FUNPACK's limbs are the base-2^16 digits of LE(IN). -/
theorem funpackReadsIn : Obligations.FunpackReadsIn := by
  obtain ⟨-, -, -, -, -, -, layout, -⟩ := commandWordLayout
  refine ⟨fun d s => ?_, layout, fun d s counting => ?_⟩
  · obtain ⟨t, ht, hd, wrote, completed⟩ := exec_writes_one (exec_funpack d s)
    refine ⟨t, ht, fun i => ?_, fun i => ?_, ?_, completed.inp, wrote, completed⟩
    · rw [hd, unpack_toInt]
    · have := s.inp[2 * i.val].isLt
      have := s.inp[2 * i.val + 1].isLt
      rw [hd, unpack_toInt]
      omega
    · rw [hd, val_unpack]
  · obtain ⟨t, ht, hd, -⟩ := exec_writes_one (exec_funpack d s)
    refine ⟨t, ht, fun i => ?_⟩
    have low := counting ⟨2 * i.val, by omega⟩
    have high := counting ⟨2 * i.val + 1, by omega⟩
    rw [Fin.getElem_fin] at low high
    rw [hd, Fin.getElem_fin, unpack_getElem _ i.isLt, low, high, BitVec.toNat_ofNat, BitVec.toNat_ofNat,
      Nat.mod_eq_of_lt (by omega), Nat.mod_eq_of_lt (by omega)]

/-- Settles O24: the bytes of OUT make up val(x) mod p. -/
theorem fpackWritesCanonicalBytes : Obligations.FpackWritesCanonicalBytes := by
  obtain ⟨-, -, -, -, -, -, -, layout, -⟩ := commandWordLayout
  refine ⟨fun s1 s => ?_, layout, fun r s => ?_, fun s => ?_⟩
  · obtain ⟨t, ht, hout, hf, hl, completed⟩ := exec_fpack_writes_out s1 s
    refine ⟨t, ht, ?_, fun k => ?_, ?_, hf, hl, completed⟩
    · rw [hout, leNat_pack]
    · rw [hout, Fin.getElem_fin, pack_toNat _ k.isLt]
    · rw [hout]; exact pack_top_bit _
  · obtain ⟨t, ht, hout, -⟩ := exec_fpack_writes_out (.reg r) s
    have value := leNat_pack (s.getF r)
    have prime := fieldPrime_eq
    rw [State.opnd_reg] at hout
    rw [← hout] at value
    refine ⟨t, ht, fun h => ?_, fun h => ?_, fun h => ?_⟩ <;> rw [h, prime] at value <;> omega
  · obtain ⟨t, ht, hout, -⟩ := exec_fpack_writes_out .knine s
    have value := leNat_pack knine
    rw [State.opnd_knine] at hout
    rw [← hout, knine, val_limbs (by decide)] at value
    exact ⟨t, ht, by exact_mod_cast value⟩

/-- Settles O25: three passes leave digits, and two conditional subtractions reduce the number they make up. -/
theorem packMechanismAgrees : Obligations.PackMechanismAgrees := by
  intro x h
  obtain ⟨v, hv, ht, value⟩ := exists_carry_carry_carry_eq_limbs h
  rw [packMechanism, ht, packRound_packRound_limbs hv, pack_of_modEq value]
  exact Vector.ext fun k hk => by rw [Vector.getElem_ofFn, ← limbs_extract_byte _ hk]

/-- Settles O26: FPACK takes FUNPACK's value LE(IN), which is below 3p, modulo p. -/
theorem unpackThenPackReduces : Obligations.UnpackThenPackReduces := by
  intro d s
  obtain ⟨t, ht, hout, -⟩ := exec_fpack_writes_out (.reg d) (s.setF d (unpack s.inp)).complete
  rw [State.opnd_reg, State.getF_complete, State.getF_setF_same, pack_unpack] at hout
  have range := leNat_lt s.inp
  have reduced : leNat t.out = leNat s.inp % fieldPrime := by rw [hout, leNat_bytesOf (by rw [fieldPrime_eq]; omega)]
  refine ⟨t, ?_, reduced, fun small => ?_, fun large => ?_, fun ones => ?_⟩
  · simp only [runCommands, exec_funpack, ht]
  · rw [hout, Nat.mod_eq_of_lt small, bytesOf_leNat]
  · rw [fieldPrime_eq] at *; omega
  · have allOnes : s.inp = Vector.replicate 32 0xFF :=
      Vector.ext fun k hk => (ones ⟨k, hk⟩).trans (Vector.getElem_replicate hk).symm
    rw [reduced, allOnes]
    decide +kernel

end Sys2Proof.Machine
end

section
/-! PROOFS of the family 42_ladder.md: the ladder registers a to f as F0 to F5, the commands run line by line, the
iterations on the bits of SCALAR, the range of the registers, and the points they represent. -/

namespace Sys2Proof.Machine

open Sys2Proof.Claims

/-! ### The scalar's bits (42_ladder.md R186) -/

theorem bitAt_eq_testBit (b : ByteReg) (i : BitVec 8) : bitAt b i = (leNat b).testBit i.toNat := by
  have hi : i.toNat / 8 < 32 := by omega
  have byte : b[i.toNat / 8].toNat = leNat b / 2 ^ (8 * (i.toNat / 8)) % 2 ^ 8 := by
    have digit := bytesOf_toNat (leNat b) hi
    rwa [bytesOf_leNat, byte_pow] at digit
  rw [bitAt, BitVec.getLsbD, byte, Nat.testBit_mod_two_pow, Nat.testBit_div_two_pow, Nat.mod_add_div,
    decide_eq_true (Nat.mod_lt _ (by decide)), Bool.true_and]

/-- The bit an iteration uses is bit LCOUNT − 1. -/
theorem bitAt_pred {c : BitVec 8} {n : Nat} (h : c.toNat = n + 1) (b : ByteReg) :
    bitAt b (c - 1) = (leNat b).testBit n := by
  have index : (c - 1).toNat = n := by bv_omega
  rw [bitAt_eq_testBit, index]

/-! ### The ladder registers a to f are F0 to F5 (10_state.md R22) -/

section
variable (s : State) (l : LadderRegs) (v : Elem)

@[simp] theorem State.getF_setLadderRegs_zero : (s.setLadderRegs l).getF 0 = l.a := (rfl)
@[simp] theorem State.getF_setLadderRegs_one : (s.setLadderRegs l).getF 1 = l.b := (rfl)
@[simp] theorem State.getF_setLadderRegs_two : (s.setLadderRegs l).getF 2 = l.c := (rfl)
@[simp] theorem State.getF_setLadderRegs_three : (s.setLadderRegs l).getF 3 = l.d := (rfl)
@[simp] theorem State.getF_setLadderRegs_four : (s.setLadderRegs l).getF 4 = l.e := (rfl)
@[simp] theorem State.getF_setLadderRegs_five : (s.setLadderRegs l).getF 5 = l.f := (rfl)

@[simp] theorem State.setF_setLadderRegs_zero :
    (s.setLadderRegs l).setF 0 v = s.setLadderRegs { l with a := v } := (rfl)
@[simp] theorem State.setF_setLadderRegs_one :
    (s.setLadderRegs l).setF 1 v = s.setLadderRegs { l with b := v } := (rfl)
@[simp] theorem State.setF_setLadderRegs_two :
    (s.setLadderRegs l).setF 2 v = s.setLadderRegs { l with c := v } := (rfl)
@[simp] theorem State.setF_setLadderRegs_three :
    (s.setLadderRegs l).setF 3 v = s.setLadderRegs { l with d := v } := (rfl)
@[simp] theorem State.setF_setLadderRegs_four :
    (s.setLadderRegs l).setF 4 v = s.setLadderRegs { l with e := v } := (rfl)
@[simp] theorem State.setF_setLadderRegs_five :
    (s.setLadderRegs l).setF 5 v = s.setLadderRegs { l with f := v } := (rfl)

@[simp] theorem State.setLadderRegs_complete : (s.setLadderRegs l).complete = s.complete.setLadderRegs l := (rfl)

@[simp] theorem State.complete_complete : s.complete.complete = s.complete := (rfl)

theorem State.complete_ladderRegs : s.complete.ladderRegs = s.ladderRegs := (rfl)

theorem State.setLadderRegs_ladderRegs : s.setLadderRegs s.ladderRegs = s := by
  have file : (s.setLadderRegs s.ladderRegs).f = s.f := Vector.ext fun i hi => by
    interval_cases i <;> rfl
  ext1
  case f => exact file
  all_goals rfl

end

/-- F0 to F5 are determined by a to f. -/
theorem getF_eq_of_ladderRegs_eq {s t : State} (h : s.ladderRegs = t.ladderRegs) {r : FReg} (hr : r.val < 6) :
    s.getF r = t.getF r := by
  simp only [State.getF_ladderRegs, LadderRegs.mk.injEq] at h
  obtain ⟨ha, hb, hc, hd, he, hf⟩ := h
  obtain ⟨r, _⟩ := r
  replace hr : r < 6 := hr
  interval_cases r <;> assumption

/-! ### Commands run one after the other (R139) -/

theorem runCommands_cons {i : Instr} {s t : State} (h : exec i s = .next t) (is : List Instr) :
    runCommands (i :: is) s = runCommands is t := by
  rw [runCommands, h]

@[simp] theorem runCommands_fadd (d : FReg) (s1 s2 : Src) (is : List Instr) (s : State) :
    runCommands (.fadd d s1 s2 :: is) s = runCommands is (s.setF d (addLimbs (s.opnd s1) (s.opnd s2))).complete :=
  runCommands_cons (exec_fadd d s1 s2 s) is

@[simp] theorem runCommands_fsub (d : FReg) (s1 s2 : Src) (is : List Instr) (s : State) :
    runCommands (.fsub d s1 s2 :: is) s = runCommands is (s.setF d (subLimbs (s.opnd s1) (s.opnd s2))).complete :=
  runCommands_cons (exec_fsub d s1 s2 s) is

@[simp] theorem runCommands_fmul (d : FReg) (s1 s2 : Src) (is : List Instr) (s : State) :
    runCommands (.fmul d s1 s2 :: is) s = runCommands is (s.setF d (mulred (s.opnd s1) (s.opnd s2))).complete :=
  runCommands_cons (exec_fmul d s1 s2 s) is

@[simp] theorem runCommands_fcswap (a b : FReg) (flag : Bool) (is : List Instr) (s : State) :
    runCommands (.fcswap a b flag :: is) s =
      runCommands is ((s.setF a (cswap (s.getF a) (s.getF b) flag).1).setF b
        (cswap (s.getF a) (s.getF b) flag).2).complete :=
  runCommands_cons (exec_fcswap a b flag s) is

@[simp] theorem runCommands_nil (s : State) : runCommands [] s = .next s := rfl

/-- The lines of R188 run as commands are the iteration: each line writes one or two of the registers a to f, and the
completions between the lines collapse into one. -/
theorem runCommands_lstepLines (r : Bool) (s : State) :
    runCommands (lstepLines r) s = .next (s.setLadderRegs (ladderStep r s.ladderRegs)).complete := by
  have lines : ∀ l, runCommands (lstepLines r) (s.setLadderRegs l)
      = .next (s.setLadderRegs (ladderStep r l)).complete := fun l => by
    simp [lstepLines, ladderStep]
  have run := lines s.ladderRegs
  rwa [State.setLadderRegs_ladderRegs] at run

/-! ### Completion and the ladder's bodies (R230)

A body reads neither BUSY nor DONE, so it may run before or after the bits of an earlier completion are set. -/

theorem lstepBody_complete (s : State) : lstepBody s.complete = (lstepBody s).complete := (rfl)

theorem lfinishBody_complete (s : State) : lfinishBody s.complete = (lfinishBody s).complete := by
  ext1
  case f => simp [lfinishBody_f]
  case out => simp [lfinishBody_out]
  all_goals simp

/-- The lines of R189 run as commands are LFINISH's body. -/
theorem runCommands_lfinishLines (s : State) :
    runCommands [.finv 2 (.reg 2), .fmul 0 (.reg 0) (.reg 2), .fpack (.reg 0)] s = .next (lfinishBody s).complete := by
  have a : (s.setF 2 (inverse (s.getF 2))).getF 0 = s.getF 0 := State.getF_setF_other s _ (by decide)
  rw [runCommands_cons (exec_finv 2 (.reg 2) s), runCommands_fmul, runCommands_cons (exec_fpack (.reg 0) _),
    runCommands_nil]
  simp only [State.opnd_reg, State.getF_complete, State.getF_setF_same, a]
  refine congrArg Host.Outcome.next ?_
  ext1
  case f => simp [lfinishBody_f]
  case out => simp [lfinishBody_out]
  all_goals simp

theorem lstepBody_lcount_toNat {s : State} (h : s.lcount ≠ 0) :
    (lstepBody s).lcount.toNat + 1 = s.lcount.toNat := by
  rw [lstepBody_lcount]
  bv_omega

/-- LSTEPs run as commands are LSTEP bodies in a row, as long as LCOUNT lasts. -/
theorem runCommands_lsteps {n : Nat} {s : State} (h : n ≤ s.lcount.toNat) (is : List Instr) :
    runCommands (List.replicate n .lstep ++ is) s.complete = runCommands is (lstepLoop n s).complete := by
  induction n generalizing s with
  | zero => rfl
  | succ n ih =>
    have left : s.lcount ≠ 0 := fun zero => by simp [zero] at h
    have next := lstepBody_lcount_toNat left
    rw [List.replicate_succ, List.cons_append, runCommands_cons (exec_lstep s.complete left), lstepBody_complete,
      State.complete_complete, ih (by omega), lstepLoop_succ]

theorem runCommands_ladder (s : State) :
    runCommands (.linit :: (List.replicate 255 .lstep ++ [.lfinish])) s
      = .next (lfinishBody (lstepLoop 255 (linitBody s))).complete := by
  have count : 255 ≤ (linitBody s).lcount.toNat := by rw [linitBody_lcount]; decide
  rw [runCommands_cons (exec_linit s), runCommands_lsteps count, runCommands_cons (exec_lfinish _),
    lfinishBody_complete, State.complete_complete, runCommands_nil]

/-! ### One iteration: on bit 1 the points change places before and after (R188) -/

/-- (a : c) and (b : d) exchanged. -/
def LadderRegs.swap (l : LadderRegs) : LadderRegs := { l with a := l.b, b := l.a, c := l.d, d := l.c }

theorem ladderStep_true (l : LadderRegs) : ladderStep true l = (ladderStep false l.swap).swap := by
  simp [ladderStep, cswap_eq, LadderRegs.swap]

section
variable (l : LadderRegs)

/-- (a + c)², the square of the sum. -/
def LadderRegs.aa : Elem := mulred (addLimbs l.a l.c) (addLimbs l.a l.c)

/-- (a − c)², the square of the difference. -/
def LadderRegs.bb : Elem := mulred (subLimbs l.a l.c) (subLimbs l.a l.c)

/-- (b − d)(a + c). -/
def LadderRegs.da : Elem := mulred (subLimbs l.b l.d) (addLimbs l.a l.c)

/-- (b + d)(a − c). -/
def LadderRegs.cb : Elem := mulred (addLimbs l.b l.d) (subLimbs l.a l.c)

/-- What an iteration on bit 0 leaves in a to f. -/
theorem ladderStep_false : ladderStep false l =
    { a := mulred l.aa l.bb
      b := mulred (addLimbs l.cb l.da) (addLimbs l.cb l.da)
      c := mulred (subLimbs l.aa l.bb) (addLimbs (mulred (subLimbs l.aa l.bb) ka24) l.aa)
      d := mulred (mulred (subLimbs l.cb l.da) (subLimbs l.cb l.da)) knine
      e := addLimbs l.cb l.da
      f := l.bb } := by
  simp [ladderStep, cswap_eq, LadderRegs.aa, LadderRegs.bb, LadderRegs.da, LadderRegs.cb]

end

/-- e and f are written before they are read (R193). -/
theorem ladderStep_congr (r : Bool) {l m : LadderRegs} (ha : l.a = m.a) (hb : l.b = m.b) (hc : l.c = m.c)
    (hd : l.d = m.d) : ladderStep r l = ladderStep r m := by
  unfold ladderStep
  rw [ha, hb, hc, hd]

/-! ### The range of the registers (R194) -/

theorem limbs_mulredRange (v : Nat) : MulredRange (limbs v) := fun i => by
  rw [Fin.getElem_fin, limbs_toInt v i.isLt]
  omega

section
variable {x y : Elem} (hx : MulredRange x) (hy : MulredRange y)
include hx hy

theorem addLimbs_within_of_mulredRange : Within (addLimbs x y) (2 ^ 18) :=
  within_mono (addLimbs_within (mulredRange_within hx) (mulredRange_within hy) (by norm_num)) (by norm_num)

theorem subLimbs_within_of_mulredRange : Within (subLimbs x y) (2 ^ 18) :=
  within_mono (subLimbs_within (mulredRange_within hx) (mulredRange_within hy) (by norm_num)) (by norm_num)

theorem val_addLimbs_of_mulredRange : val (addLimbs x y) = val x + val y := val_addLimbs fun i => by
  have := mulredRange_within hx i
  have := mulredRange_within hy i
  unfold FitsLimb
  omega

theorem val_subLimbs_of_mulredRange : val (subLimbs x y) = val x - val y := val_subLimbs fun i => by
  have := mulredRange_within hx i
  have := mulredRange_within hy i
  unfold FitsLimb
  omega

end

/-- a to d, the two points, hold MULRED outputs. -/
structure LadderRegs.InRange (l : LadderRegs) : Prop where
  a : MulredRange l.a
  b : MulredRange l.b
  c : MulredRange l.c
  d : MulredRange l.d

theorem LadderRegs.InRange.swap {l : LadderRegs} (h : l.InRange) : l.swap.InRange := ⟨h.b, h.a, h.d, h.c⟩

/-- Whatever the registers hold, after an iteration a to d are MULRED outputs, e is a sum of two and f is one. -/
theorem ladderStep_range (r : Bool) (l : LadderRegs) :
    (ladderStep r l).InRange ∧ Within (ladderStep r l).e (2 ^ 18) ∧ MulredRange (ladderStep r l).f := by
  have keep : ∀ m : LadderRegs, (ladderStep false m).InRange ∧ Within (ladderStep false m).e (2 ^ 18) ∧
      MulredRange (ladderStep false m).f := fun m => by
    rw [ladderStep_false]
    exact ⟨⟨mulred_mulredRange _ _, mulred_mulredRange _ _, mulred_mulredRange _ _, mulred_mulredRange _ _⟩,
      addLimbs_within_of_mulredRange (mulred_mulredRange _ _) (mulred_mulredRange _ _), mulred_mulredRange _ _⟩
  cases r with
  | false => exact keep l
  | true =>
    rw [ladderStep_true]
    obtain ⟨points, he, hf⟩ := keep l.swap
    exact ⟨points.swap, he, hf⟩

/-! ### The residues of the registers (R194, R195) -/

/-- x is a MULRED output, or a constant, that represents z. -/
structure Reduced (x : Elem) (z : ZMod fieldPrime) : Prop where
  range : MulredRange x
  residue : residue x = z

/-- x may be an operand of MULRED (R134) and represents z. -/
structure Operand (x : Elem) (z : ZMod fieldPrime) : Prop where
  within : Within x (2 ^ 26)
  residue : residue x = z

section
variable {x y : Elem} {u v : ZMod fieldPrime}

theorem Reduced.operand (hx : Reduced x u) : Operand x u := ⟨mulredRange_within_envelope hx.range, hx.residue⟩

theorem Reduced.add (hx : Reduced x u) (hy : Reduced y v) : Operand (addLimbs x y) (u + v) where
  within := within_mono (addLimbs_within_of_mulredRange hx.range hy.range) (by norm_num)
  residue := by
    rw [Claims.residue, val_addLimbs_of_mulredRange hx.range hy.range, Int.cast_add, ← hx.residue, ← hy.residue]
    rfl

theorem Reduced.sub (hx : Reduced x u) (hy : Reduced y v) : Operand (subLimbs x y) (u - v) where
  within := within_mono (subLimbs_within_of_mulredRange hx.range hy.range) (by norm_num)
  residue := by
    rw [Claims.residue, val_subLimbs_of_mulredRange hx.range hy.range, Int.cast_sub, ← hx.residue, ← hy.residue]
    rfl

theorem Operand.mul (hx : Operand x u) (hy : Operand y v) : Reduced (mulred x y) (u * v) where
  range := mulred_mulredRange x y
  residue := by rw [residue_mulred hx.within hy.within, hx.residue, hy.residue]

/-- The constants of R23. -/
theorem reduced_limbs {n : Nat} (h : n < 2 ^ 256) : Reduced (limbs n) n where
  range := limbs_mulredRange n
  residue := by rw [Claims.residue, val_limbs h, Int.cast_natCast]

end

theorem reduced_kzero : Reduced kzero 0 := by simpa [kzero] using reduced_limbs (n := 0) (by norm_num)
theorem reduced_kone : Reduced kone 1 := by simpa [kone] using reduced_limbs (n := 1) (by norm_num)
theorem reduced_knine : Reduced knine 9 := reduced_limbs (n := 9) (by norm_num)
theorem reduced_ka24 : Reduced ka24 121665 := reduced_limbs (n := 121665) (by norm_num)

theorem pointsOf_swap (l : LadderRegs) : pointsOf l.swap = (pointsOf l).swap := (rfl)

/-- An iteration on bit 0 doubles (a : c) and adds the two points. -/
theorem pointsOf_ladderStep_false {l : LadderRegs} (h : l.InRange) :
    pointsOf (ladderStep false l) = (pointsOf l).double := by
  have a : Reduced l.a (residue l.a) := ⟨h.a, rfl⟩
  have b : Reduced l.b (residue l.b) := ⟨h.b, rfl⟩
  have c : Reduced l.c (residue l.c) := ⟨h.c, rfl⟩
  have d : Reduced l.d (residue l.d) := ⟨h.d, rfl⟩
  have aa : Reduced l.aa _ := (a.add c).mul (a.add c)
  have bb : Reduced l.bb _ := (a.sub c).mul (a.sub c)
  have da : Reduced l.da _ := (b.sub d).mul (a.add c)
  have cb : Reduced l.cb _ := (b.add d).mul (a.sub c)
  have x2 := (aa.operand.mul bb.operand).residue
  have z2 := ((aa.sub bb).mul ((((aa.sub bb).mul reduced_ka24.operand)).add aa)).residue
  have x3 := ((cb.add da).mul (cb.add da)).residue
  have z3 := (((cb.sub da).mul (cb.sub da)).operand.mul reduced_knine.operand).residue
  rw [ladderStep_false]
  simp only [pointsOf, Points.double, x2, z2, x3, z3, Points.mk.injEq]
  refine ⟨?_, ?_, ?_, ?_⟩ <;> ring

theorem pointsOf_ladderStep (r : Bool) {l : LadderRegs} (h : l.InRange) :
    pointsOf (ladderStep r l) = (pointsOf l).step r := by
  cases r with
  | false => exact pointsOf_ladderStep_false h
  | true =>
    rw [ladderStep_true, pointsOf_swap, pointsOf_ladderStep_false h.swap, pointsOf_swap, Points.step, if_pos rfl]

/-! ### The iterations on the bits of a scalar (R190) -/

/-- The iterations on bits n − 1 down to 0 of k. -/
def ladderRun (k : Nat) : Nat → LadderRegs → LadderRegs
  | 0, l => l
  | n + 1, l => ladderRun k n (ladderStep (k.testBit n) l)

theorem ladderRun_succ (k n : Nat) (l : LadderRegs) :
    ladderRun k (n + 1) l = ladderRun k n (ladderStep (k.testBit n) l) := rfl

/-- LSTEP bodies in a row are the iterations on the bits LCOUNT − 1 to 0 of LE(SCALAR). -/
theorem lstepLoop_ladderRegs {n : Nat} {s : State} (h : s.lcount.toNat = n) :
    (lstepLoop n s).ladderRegs = ladderRun (leNat s.scalar) n s.ladderRegs := by
  induction n generalizing s with
  | zero => rfl
  | succ n ih =>
    have next := lstepBody_lcount_toNat (s := s) fun zero => by simp [zero] at h
    rw [lstepLoop_succ, ih (by omega), lstepBody_scalar, lstepBody_ladderRegs, bitAt_pred h, ladderRun_succ]

/-- A run reads no bit of the scalar but those it iterates on (R191). -/
theorem ladderRun_congr_bits {k k' n : Nat} (bits : ∀ i < n, k.testBit i = k'.testBit i) (l : LadderRegs) :
    ladderRun k n l = ladderRun k' n l := by
  induction n generalizing l with
  | zero => rfl
  | succ n ih => rw [ladderRun_succ, ladderRun_succ k', bits n n.lt_succ_self, ih fun i hi => bits i (by omega)]

/-- A run of at least one iteration does not depend on e and f (R193). -/
theorem ladderRun_congr_points (k n : Nat) {l m : LadderRegs} (ha : l.a = m.a) (hb : l.b = m.b) (hc : l.c = m.c)
    (hd : l.d = m.d) : ladderRun k (n + 1) l = ladderRun k (n + 1) m := by
  rw [ladderRun_succ, ladderRun_succ, ladderStep_congr _ ha hb hc hd]

theorem ladderRun_inRange (k n : Nat) {l : LadderRegs} (h : l.InRange) : (ladderRun k n l).InRange := by
  induction n generalizing l with
  | zero => exact h
  | succ n ih => exact ih (ladderStep_range _ l).1

theorem pointsOf_ladderRun (k n : Nat) {l : LadderRegs} (h : l.InRange) :
    pointsOf (ladderRun k n l) = Points.ladder k n (pointsOf l) := by
  induction n generalizing l with
  | zero => rfl
  | succ n ih => rw [ladderRun_succ, ih (ladderStep_range _ l).1, pointsOf_ladderStep _ h, Points.ladder]

/-! ### LADDER (R190, R196) -/

/-- The registers LADDER's iterations end with: F0 to F5 before LFINISH's body. -/
def State.ladderEnd (s : State) : LadderRegs := ladderRun (leNat s.scalar) 255 (linitBody s).ladderRegs

theorem lstepLoop_linitBody_ladderRegs (s : State) : (lstepLoop 255 (linitBody s)).ladderRegs = s.ladderEnd := by
  rw [lstepLoop_ladderRegs (by rw [linitBody_lcount]; decide), linitBody_scalar]
  rfl

theorem lfinishBody_getF_two (s : State) : (lfinishBody s).getF 2 = inverse (s.getF 2) := by
  simp [State.getF, lfinishBody_f]

/-- c inverted and a multiplied by it: the point (a : c) made affine (R189). -/
def LadderRegs.finish (l : LadderRegs) : LadderRegs := { l with a := mulred l.a (inverse l.c), c := inverse l.c }

theorem lfinishBody_ladderRegs (s : State) : (lfinishBody s).ladderRegs = s.ladderRegs.finish := by
  simp only [LadderRegs.finish, State.getF_ladderRegs, lfinishBody_getF_zero, lfinishBody_getF_two]
  simp [lfinishBody_getF_other]

/-- What LADDER leaves. -/
structure LadderEffect (s t : State) : Prop where
  regs      : t.ladderRegs = s.ladderEnd.finish
  out       : t.out = pack s.ladderEnd.finish.a
  lcount    : t.lcount = 0
  high      : t.getF 6 = s.getF 6 ∧ t.getF 7 = s.getF 7
  completed : Completed s t

theorem ladder_effect (s : State) : LadderEffect s (lfinishBody (lstepLoop 255 (linitBody s))).complete where
  regs := by
    rw [State.complete_ladderRegs, lfinishBody_ladderRegs, lstepLoop_linitBody_ladderRegs]
  out := by
    rw [State.complete_out, lfinishBody_out, LadderRegs.finish, ← lstepLoop_linitBody_ladderRegs,
      State.getF_ladderRegs]
  lcount := by
    rw [State.complete_lcount, lfinishBody_lcount, lstepLoop_lcount, linitBody_lcount]
    decide
  high := by
    obtain ⟨h6, h7⟩ := lstepLoop_getF_high 255 (linitBody s)
    rw [State.getF_complete, State.getF_complete, lfinishBody_getF_other _ (by decide) (by decide),
      lfinishBody_getF_other _ (by decide) (by decide), h6, h7]
    exact ⟨rfl, rfl⟩
  completed := (exec_next_effect (exec_ladder s)).completed fun ⟨h, _⟩ => by cases h

theorem linitBody_inRange (s : State) : (linitBody s).ladderRegs.InRange :=
  ⟨limbs_mulredRange 1, limbs_mulredRange 9, limbs_mulredRange 0, limbs_mulredRange 1⟩

theorem pointsOf_linitBody (s : State) : pointsOf (linitBody s).ladderRegs = Points.start := by
  rw [linitBody_ladderRegs]
  simp only [pointsOf, reduced_kone.residue, reduced_knine.residue, reduced_kzero.residue, Points.start]

theorem residue_pack (x : Elem) : ((leNat (pack x) : Nat) : ZMod fieldPrime) = residue x := by
  rw [← Int.cast_natCast, leNat_pack, ZMod.intCast_mod]
  rfl

theorem leNat_pack_lt (x : Elem) : leNat (pack x) < fieldPrime := by
  have canonical := leNat_pack x
  have bound := (emod_fieldPrime_bounds (val x)).2
  omega

/-! ### A zero scalar (R197) -/

/-- On bit 0, a = 1 and c = 0 stay: the sum and the difference are 1, so their squares differ by 0. -/
theorem ladderStep_fixed {l : LadderRegs} (ha : l.a = limbs 1) (hc : l.c = limbs 0) :
    (ladderStep false l).a = limbs 1 ∧ (ladderStep false l).c = limbs 0 := by
  have sum : addLimbs (limbs 1) (limbs 0) = limbs 1 := by decide +kernel
  have difference : subLimbs (limbs 1) (limbs 0) = limbs 1 := by decide +kernel
  have square : mulred (limbs 1) (limbs 1) = limbs 1 := by decide +kernel
  have aa : l.aa = limbs 1 := by rw [LadderRegs.aa, ha, hc, sum, square]
  have bb : l.bb = limbs 1 := by rw [LadderRegs.bb, ha, hc, difference, square]
  rw [ladderStep_false, aa, bb, subLimbs_self, mulred_zero_left]
  exact ⟨square, rfl⟩

theorem ladderRun_fixed {k n : Nat} (bits : ∀ i < n, k.testBit i = false) {l : LadderRegs} (ha : l.a = limbs 1)
    (hc : l.c = limbs 0) : (ladderRun k n l).c = limbs 0 := by
  induction n generalizing l with
  | zero => exact hc
  | succ n ih =>
    obtain ⟨ha', hc'⟩ := ladderStep_fixed ha hc
    rw [ladderRun_succ, bits n n.lt_succ_self]
    exact ih (fun i hi => bits i (by omega)) ha' hc'

theorem invLoop_zero (n : Nat) : invLoop (limbs 0) n (limbs 0) = limbs 0 := by
  induction n with
  | zero => rfl
  | succ n ih => rw [invLoop_succ, invStep, mulred_zero_left, mulred_zero_left, ite_self, ih]

theorem inverse_zero : inverse (limbs 0) = limbs 0 := invLoop_zero 254

/-! ### The obligations of 42_ladder.md -/

/-- Settles O27, from the registers LINIT's body writes. -/
theorem linitStartsLadder : Obligations.LinitStartsLadder := by
  obtain ⟨-, -, -, -, -, -, -, -, layout, -⟩ := commandWordLayout
  refine ⟨fun s => ⟨_, exec_linit s, fun i => limbs_getElem_of_lt (by decide) i,
    fun i => limbs_getElem_of_lt (by decide) i, fun i => ?_, fun i => limbs_getElem_of_lt (by decide) i, rfl,
    fun r hr => ?_, rfl, ?_⟩, layout⟩
  · exact (limbs_getElem_of_lt (by decide) i).trans (ite_self _)
  · obtain ⟨r, _⟩ := r
    replace hr : 4 ≤ r := hr
    interval_cases r <;> rfl
  · exact (exec_next_effect (exec_linit s)).completed fun ⟨h, _⟩ => by cases h

/-- Settles O28: the lines run as commands are the iteration, and LSTEP's bit is bit LCOUNT − 1 of LE(SCALAR). -/
theorem lstepRunsItsLines : Obligations.LstepRunsItsLines := by
  intro s left
  obtain ⟨n, count⟩ : ∃ n, s.lcount.toNat = n + 1 := Nat.exists_eq_succ_of_ne_zero (by bv_omega)
  refine ⟨_, _, exec_lstep s left, runCommands_lstepLines _ s, ?_, ?_, rfl, rfl, rfl, ?_⟩
  · rw [State.complete_f, State.complete_f, lstepBody_f, bitAt_pred count, count, Nat.add_sub_cancel]
  · rw [State.complete_lcount, lstepBody_lcount_toNat left]
  · exact (exec_next_effect (exec_lstep s left)).completed fun ⟨_, h⟩ => left h

/-- Settles O30: the lines run as commands are LFINISH's body. -/
theorem lfinishRunsItsLines : Obligations.LfinishRunsItsLines := by
  intro s
  refine ⟨_, exec_lfinish s, runCommands_lfinishLines s, ?_, fun r h0 h2 => ?_, ?_⟩
  · rw [State.complete_lcount, lfinishBody_lcount]
  · rw [State.getF_complete, lfinishBody_getF_other s h0 h2]
  · exact (exec_next_effect (exec_lfinish s)).completed fun ⟨h, _⟩ => by cases h

/-- Settles O31: LCOUNT lasts for the 255 LSTEPs, and a completion between two bodies changes nothing they read. -/
theorem ladderIsItsSteps : Obligations.LadderIsItsSteps := by
  intro s
  have effect := ladder_effect s
  refine ⟨_, exec_ladder s, runCommands_ladder s, effect.lcount, ?_, effect.high.1, effect.high.2, effect.completed⟩
  rw [State.complete_out, lfinishBody_out, State.getF_complete, lfinishBody_getF_zero]

/-- Settles O32: LINIT's body writes a to d, the first iteration writes e and f, and each bit read is below 255. -/
theorem ladderDependsOnScalarBits : Obligations.LadderDependsOnScalarBits := by
  intro s s' bits
  have same : s.ladderEnd = s'.ladderEnd :=
    (ladderRun_congr_bits bits _).trans (ladderRun_congr_points _ 254 rfl rfl rfl rfl)
  have effect := ladder_effect s
  have effect' := ladder_effect s'
  refine ⟨_, _, exec_ladder s, exec_ladder s', ?_, fun r hr => getF_eq_of_ladderRegs_eq ?_ hr⟩
  · rw [effect.out, effect'.out, same]
  · rw [effect.regs, effect'.regs, same]

/-- Settles O33: an iteration ends in MULRED outputs, and two of them add to less than 2^18 in magnitude. -/
theorem ladderStaysInEnvelope : Obligations.LadderStaysInEnvelope := by
  refine ⟨⟨limbs_mulredRange 1, limbs_mulredRange 9, limbs_mulredRange 0, limbs_mulredRange 121665⟩,
    fun r l _ _ _ _ => ?_, fun x y hx hy => ⟨addLimbs_within_of_mulredRange hx hy,
      subLimbs_within_of_mulredRange hx hy, val_addLimbs_of_mulredRange hx hy, val_subLimbs_of_mulredRange hx hy⟩⟩
  obtain ⟨points, he, hf⟩ := ladderStep_range r l
  exact ⟨points.a, points.b, points.c, points.d, he, hf⟩

/-- Settles O34: inside the envelope each line computes its value mod p. -/
theorem ladderStepIsTextbookStep : Obligations.LadderStepIsTextbookStep :=
  fun r _ ha hb hc hd => pointsOf_ladderStep r ⟨ha, hb, hc, hd⟩

/-- Settles O35: every iteration is the textbook step, INV is the power p − 2, and PACK keeps the residue. -/
theorem ladderComputesTextbookLadder : Obligations.LadderComputesTextbookLadder := by
  intro s
  have range : s.ladderEnd.InRange := ladderRun_inRange _ _ (linitBody_inRange s)
  have points : pointsOf s.ladderEnd = Points.ladder (leNat s.scalar) 255 Points.start := by
    rw [State.ladderEnd, pointsOf_ladderRun _ _ (linitBody_inRange s), pointsOf_linitBody]
  refine ⟨_, exec_ladder s, ?_, ?_⟩
  · rw [(ladder_effect s).out, residue_pack, LadderRegs.finish, ← points,
      residue_mulred (mulredRange_within_envelope range.a) (mulredRange_within_envelope (inverse_mulredRange _)),
      residue_inverse (mulredRange_within_envelope range.c)]
    rfl
  · rw [(ladder_effect s).out]
    exact leNat_pack_lt _

/-- Settles O36: every iteration keeps a = 1 and c = 0, INV of 0 is 0, and a product by 0 packs to zero bytes. -/
theorem zeroScalarGivesZero : Obligations.ZeroScalarGivesZero := by
  refine ⟨fun l => ladderStep_fixed, fun s bits => ⟨_, exec_ladder s, fun k => ?_, ?_, ?_⟩⟩
  · have c : s.ladderEnd.c = limbs 0 := ladderRun_fixed bits rfl rfl
    have product : s.ladderEnd.finish.a = limbs 0 := by rw [LadderRegs.finish, c, inverse_zero, mulred_zero_right]
    rw [(ladder_effect s).out, product]
    revert k
    decide +kernel
  · exact (ladder_effect s).completed.err
  · exact (ladder_effect s).completed.errcode

end Sys2Proof.Machine
end

section
/-! PROOFS of the family 60_exceptions.md: the outcomes of a command write, and that no event stops the block. -/

namespace Sys2Proof.Machine

/-! ### A command write, outcome by outcome (R224)

The rejection of an illegal word is `busWrite_cmd_illegal`. -/

section
variable {s : State} {w : Word}

theorem busWrite_cmd_busy (hb : s.busy = true) : s.busWrite 0x00C w = s.raise .busy :=
  (busWrite_of_port s portOf_at_0x00C w).trans (if_pos hb)

/-- A legal word written while idle meets the check of LSTEP's precondition alone (R227). -/
theorem busWrite_cmd_legal (hb : s.busy = false) (hd : ∃ i, decode w = .ok i) :
    s.busWrite 0x00C w = if w.extractLsb' 0 8 = 0x11 ∧ s.lcount = 0 then s.raise .lstate else s.accept w := by
  obtain ⟨i, hi⟩ := hd
  rw [busWrite_of_port s portOf_at_0x00C]
  simp [State.writePort, State.writeCmd, hb, hi]

end

/-! ### No event stops the block (R220, R223) -/

theorem exec_continues (i : Instr) (s : State) : Continues (exec i s) :=
  let ⟨t, ht, _⟩ := exec_effect i s
  ⟨t, ht⟩

theorem engineTurn_continues (s : State) : Continues (engineTurn s) := by
  obtain ⟨-, h⟩ | ⟨-, i, -, h⟩ | ⟨-, -, h⟩ := engineTurn_cases s
  · exact ⟨_, h⟩
  · exact h ▸ exec_continues i s
  · exact ⟨_, h⟩

theorem step_continues (s : State) : Continues (step s) := by
  obtain ⟨-, h⟩ | ⟨off, es, -, h⟩ | ⟨off, v, es, -, h⟩ | ⟨es, -, h⟩ | ⟨es, -, h⟩ := step_cases s
  · exact h ▸ engineTurn_continues s
  · exact ⟨_, h⟩
  · exact ⟨_, h⟩
  · exact h ▸ engineTurn_continues _
  · exact ⟨_, h⟩

/-! ### The obligations of 60_exceptions.md -/

/-- Settles O10, event by event: every command and every rejection in flight goes on. -/
theorem everyStepContinues : Obligations.EveryStepContinues := step_continues

/-- Settles O52, check by check in the order of R224. -/
theorem commandWriteHandling : Obligations.CommandWriteHandling := by
  refine fun s w => ⟨fun hb => busWrite_cmd_busy hb, fun hb he => busWrite_cmd_illegal hb he, fun hb hd hop hl => ?_,
    fun hb hd hw => ?_⟩
  · exact (busWrite_cmd_legal hb hd).trans (if_pos ⟨hop, hl⟩)
  · exact (busWrite_cmd_legal hb hd).trans (if_neg hw)

/-- Settles O53: by the invariant CUR is legal and no LSTEP without iterations, so the engine's turn completes it. -/
theorem acceptedCommandCompletes : Obligations.AcceptedCommandCompletes := fun _ inv hb => inv.engineTurn_completed hb

/-- Settles O29: 0x11 is the word of LSTEP, which passes the checks of BUSY and legality and fails that of LCOUNT. -/
theorem lstepWithoutIterationsRejected : Obligations.LstepWithoutIterationsRejected :=
  ⟨fun _ hb hl => (busWrite_cmd_legal hb ⟨.lstep, decode_encode .lstep⟩).trans (if_pos ⟨rfl, hl⟩), exec_lstep_zero⟩

end Sys2Proof.Machine
end

section
/-! PROOFS of the family 70_reset_and_hazards.md: what one step does with each event of the block's sequence. -/

namespace Sys2Proof.Machine

/-! ### A step is the event that stands first (R264), or the engine's turn when none is left (log 2) -/

theorem step_of_events_cons {s : State} {e : Event} {es : List Event} (h : s.events = e :: es) :
    step s = applyEvent e { s with events := es } := by
  simp only [step, nextEvent, h]

theorem step_of_events_nil {s : State} (h : s.events = []) : step s = engineTurn s := by
  simp only [step, nextEvent, h]

/-! ### A command placed for the engine (log 6) -/

/-- 32 bits hold the whole command word. -/
theorem withFetchWord_toNat (s : State) (w : Word) : s.withFetchWord 32 w.toNat = s.loadCommand w := by
  have whole : BitVec.ofNat 32 (w.toNat % 2 ^ 32) = w := by
    rw [Nat.mod_eq_of_lt w.isLt, BitVec.ofNat_toNat, BitVec.setWidth_eq]
  exact congrArg s.loadCommand whole

theorem step_loadCommand (s : State) (i : Instr) : step (s.loadCommand (encode i)) = exec i (s.accept (encode i)) :=
  step_engine (s := s.accept (encode i)) rfl (decode_encode i) s.events

/-! ### The obligations of 70_reset_and_hazards.md -/

/-- Settles O7: the reset event gives every register its reset value, whatever the state. -/
theorem resetEventFromAnyState : Obligations.ResetEventFromAnyState := fun _ _ h => step_of_events_cons h

/-- Settles O8: the engine's turn, taken from the list or by itself, runs CUR while BUSY = 1 and else does nothing. -/
theorem stepRunsCommandInFlight : Obligations.StepRunsCommandInFlight := by
  refine ⟨fun s i es hb hd h => ?_, fun s i hb hd h => ?_, fun s es hb h => ?_, fun s hb h => ?_, fun s i => ?_⟩
  · exact (step_of_events_cons h).trans (engineTurn_ok { s with events := es } hb hd)
  · exact (step_of_events_nil h).trans (engineTurn_ok s hb hd)
  · exact (step_of_events_cons h).trans (engineTurn_idle { s with events := es } hb)
  · exact (step_of_events_nil h).trans (engineTurn_idle s hb)
  · rw [withFetchWord_toNat]
    exact step_loadCommand s i

/-- Settles O9: a host access is the event applied; what a read answers does not depend on the events still to come. -/
theorem stepAppliesHostAccess : Obligations.StepAppliesHostAccess :=
  ⟨fun _ _ _ h => step_of_events_cons h, fun _ _ _ _ h => step_of_events_cons h⟩

end Sys2Proof.Machine
end

section
/-! PROOFS of the family other: a command in flight completes (70_reset_and_hazards.md R266, R267). -/

namespace Sys2Proof.Machine

open Sys2Proof.Claims

/-! ### The engine's turn leaves the block idle (R230) -/

theorem ExecEffect.busy {s t : State} {i : Instr} (h : ExecEffect s i t) : t.busy = false := by
  cases h <;> simp

/-- Whatever the engine finds: nothing in flight, a command, or a word it rejects (log 3, log 4, log 5). -/
theorem engineTurn_busy {s t : State} (h : engineTurn s = .next t) : t.busy = false := by
  obtain ⟨hb, ht⟩ | ⟨-, i, -, ht⟩ | ⟨-, -, ht⟩ := engineTurn_cases s
  · cases ht.symm.trans h; exact hb
  · exact (exec_next_effect (ht.symm.trans h)).busy
  · cases ht.symm.trans h; simp

/-! ### The engine's turn comes (R267, log 2) -/

theorem isHostAccess_of_ne {e : Event} (hengine : e ≠ .engine) (hreset : e ≠ .reset) : isHostAccess e := by
  cases e with
  | hostRead | hostWrite => trivial
  | engine => exact absurd rfl hengine
  | reset => exact absurd rfl hreset

theorem core_run_one (s : State) : core.run 1 s = step s := by
  obtain ⟨t, ht⟩ := step_continues s
  exact (core_run_succ 0 ht).trans ht.symm

/-- Without a reset, the events before the engine's turn are host accesses, which leave the command in flight and keep
the invariant; the turn comes at the latest when no event is left. -/
theorem exists_core_run_eq_engineTurn {es : List Event} (hes : .reset ∉ es) {s : State} (hb : s.busy = true) :
    ∃ k ≤ es.length, ∃ u, core.run (k + 1) ({ s with events := es } : State) = engineTurn u ∧ u.busy = true ∧
      (BlockInv s → BlockInv u) := by
  induction es generalizing s with
  | nil => exact ⟨0, le_rfl, { s with events := [] }, core_run_one _, hb, fun inv => inv.withEvents []⟩
  | cons e es ih =>
    by_cases he : e = .engine
    · subst he
      exact ⟨0, Nat.zero_le _, { s with events := es }, core_run_one _, hb, fun inv => inv.withEvents es⟩
    have access : isHostAccess e := isHostAccess_of_ne he (List.ne_of_not_mem_cons hes).symm
    have first := step_hostAccess s access es
    obtain ⟨k, hk, u, run, hu, keeps⟩ := ih (List.not_mem_of_not_mem_cons hes)
      (s := { s.hostAccess e with events := es }) (hostAccess_sameInFlight hb e).busy
    exact ⟨k + 1, Nat.succ_le_succ hk, u, (core_run_succ _ first).trans run, hu,
      fun inv => keeps ((inv.withEvents (e :: es)).step first)⟩

/-! ### The obligation -/

/-- Settles O56: the engine's turn comes and leaves the block idle; by the invariant it completes the command. -/
theorem commandInFlightCompletes : Obligations.CommandInFlightCompletes := by
  refine ⟨fun s hb hes => ?_, fun s inv hb hes => ?_⟩
  · obtain ⟨k, hk, u, run, -, -⟩ := exists_core_run_eq_engineTurn hes hb
    obtain ⟨t, ht⟩ := engineTurn_continues u
    exact ⟨k + 1, Nat.succ_le_succ hk, t, run.trans ht, engineTurn_busy ht⟩
  · obtain ⟨k, hk, u, run, hu, keeps⟩ := exists_core_run_eq_engineTurn hes hb
    obtain ⟨t, ht, completed⟩ := (keeps inv).engineTurn_completed hu
    exact ⟨k + 1, Nat.succ_le_succ hk, t, run.trans ht, completed.busy, completed.done⟩

end Sys2Proof.Machine
end
